-- ==== Sys2Proof/Word.lean ====
section
/-! DEFINITION. The data the hardware moves: bytes, request words, coordinates, the four transaction
records of the transport port (30_encoding.md R90), their outcomes, and the three encoded formats of the
opcode table (30_encoding.md R103). -/

namespace Sys2Proof

/-- An unsigned byte, `u8` (00_scope.md R11). -/
abbrev Byte := BitVec 8

/-- A host request word, 64 bits (30_encoding.md R80). -/
abbrev ReqWord := BitVec 64

/-- A window coordinate of a request, `u12` (30_encoding.md R80, COORD_BITS of 00_scope.md R9). -/
abbrev Coord := BitVec 12

/-- A native pixel: 16 bits, 5-6-5 (20_memory.md R55). -/
abbrev Pixel := BitVec 16

/-- An electrical level of a line (30_encoding.md R90). -/
inductive Level where
  | low
  | high
deriving DecidableEq, Repr, Inhabited

/-- The state of the command/data line (00_scope.md R15; 30_encoding.md R90). -/
inductive DcState where
  | command
  | data
deriving DecidableEq, Repr, Inhabited

/-- A transaction on the transport port (30_encoding.md R90): an abstract record, not a bit pattern.
`PIN(p, l)` is one constructor per line, since the levels of RST and of DC differ. -/
inductive Txn where
  /-- `CMD(b)`: R91. -/
  | cmd (b : Byte)
  /-- `DATA(bs)`: R92. -/
  | data (bs : List Byte)
  /-- `PIN(RST, l)`: R93. -/
  | pinRst (l : Level)
  /-- `PIN(DC, l)`: R93. -/
  | pinDc (l : DcState)
  /-- `SLEEP(ms)`, in milliseconds: R94. -/
  | sleep (ms : Nat)
deriving DecidableEq, Repr, Inhabited

/-- The transport's outcome of a transaction (30_encoding.md R95). -/
inductive TxnOutcome where
  | ok
  | fail
deriving DecidableEq, Repr, Inhabited

/-- One entry of LOG (10_state.md R34). -/
abbrev LogEntry := Txn × TxnOutcome

/-- An instruction as its bits or records stand: the three formats of opcode_table.json (30_encoding.md R103). -/
inductive Encoded where
  /-- Format HREQ: a host request word (R80). -/
  | request (w : ReqWord)
  /-- Format SUBOP: the code of the SUB register (10_state.md R26). -/
  | subop (code : BitVec 4)
  /-- Format PCMD: a panel command as the transactions that carry it (R96, R97). -/
  | frame (ts : List Txn)
deriving DecidableEq, Repr, Inhabited

end Sys2Proof
end

