-- ==== Sys2Proof/Config.lean ====
section
/-! DEFINITION. What is fixed for the machine: the constants of 00_scope.md R8, the parameters of R9 as plain
data (State carries one value of them that no step writes: log 1), and the free values, constants without a
body of which nothing can be proved. -/

namespace Sys2Proof

/-- One entry of INIT_TABLE: `(cmd, params, delay_ms or NONE)` (10_state.md R21). -/
structure TableEntry where
  cmd    : Byte
  params : List Byte
  delay  : Option Nat
deriving DecidableEq, Repr, Inhabited

end Sys2Proof

namespace Sys2Proof.Config

/-- WIDTH (R8, 10_state.md R20). -/
def width : Nat := 240
/-- HEIGHT (R8, 10_state.md R20). -/
def height : Nat := 240
/-- BPP, bytes per native pixel (R8). -/
def bpp : Nat := 2
/-- NB_SIZE, bytes of the native buffer (R8). -/
def nbSize : Nat := 115200
/-- T_RST, milliseconds (R8). -/
def tRst : Nat := 10
/-- T_SLPOUT, milliseconds (R8). -/
def tSlpout : Nat := 120
/-- T_DISPON, milliseconds (R8). -/
def tDispon : Nat := 20
/-- The least number of channels of a source image (IMG_CHANNELS of R9, 41_frame_transfer.md R153). -/
def minChannels : Nat := 3
/-- The default of CHUNK_MAX (R9). -/
def chunkDefault : Nat := 4096

/-- FREE VALUE: the outcome of a transaction, a draw under no law (40_controller_protocol.md R110, R111),
where the state lists no answer of the transport (log 3). -/
opaque txnOutcome : List LogEntry → Txn → TxnOutcome

/-- FREE VALUE: channel `c` of pixel `(x, y)` as the image source answers it at the `draw`-th ENCODE, where
the state does not list the pixel or the image changes while it is read (00_scope.md R17, 20_memory.md R69;
log 5). -/
opaque freePixel : (draw x y c : Nat) → Byte

/-- FREE VALUE: the vendor's initialization table, which the spec does not give (10_state.md R21; log 2). -/
opaque vendorTable : List TableEntry

/-- FREE VALUE: by how much TRANSPORT_MAX exceeds the default of CHUNK_MAX (00_scope.md R9; log 2). -/
opaque transportHeadroom : Nat

/-- FREE VALUE: whether the vendor's table meets premise IT-1 (10_state.md R21; log 21). -/
opaque vendorTableIt1 : Bool

/-- FREE VALUE: whether the vendor's table meets premise IT-2 (10_state.md R21; log 21). -/
opaque vendorTableIt2 : Bool

end Sys2Proof.Config

namespace Sys2Proof

/-- The parameters of the model (00_scope.md R9, R17; 10_state.md R21, R22). -/
structure Params where
  chunkMax     : Nat
  transportMax : Nat
  initTable    : List TableEntry
  cmdCaset     : Byte
  cmdRaset     : Byte
  cmdRamwr     : Byte
  cmdSlpout    : Byte
  cmdDispon    : Byte
  /-- DC_DATA_LEVEL: the level of the command/data line in data state (30_encoding.md R93). -/
  dcDataLevel  : Level
  /-- Premise IT-1: after the table the panel takes 16-bit 5-6-5 pixels, most significant byte first. -/
  it1          : Bool
  /-- Premise IT-2: after the table the panel fills a window left to right, then top to bottom. -/
  it2          : Bool
deriving DecidableEq, Repr, Inhabited

/-- A table entry is none of sleep-out and display-on (10_state.md R21). -/
def Params.entryOk (p : Params) (e : TableEntry) : Bool :=
  e.cmd != p.cmdSlpout && e.cmd != p.cmdDispon

/-- What the spec says of the parameters: `1 ≤ CHUNK_MAX ≤ TRANSPORT_MAX` (41_frame_transfer.md R164) and the
table holds neither sleep-out nor display-on (10_state.md R21). -/
def Params.wf (p : Params) : Bool :=
  decide (1 ≤ p.chunkMax) && decide (p.chunkMax ≤ p.transportMax) && p.initTable.all p.entryOk

/-- The five named command bytes differ from one another, as the defaults of 00_scope.md R9 do. -/
def Params.distinct (p : Params) : Bool :=
  [p.cmdCaset, p.cmdRaset, p.cmdRamwr, p.cmdSlpout, p.cmdDispon].Nodup

/-- The electrical level of the command/data line in a state of it (30_encoding.md R93, DC_DATA_LEVEL). -/
def Params.dcLevel (p : Params) : DcState → Level
  | .data => p.dcDataLevel
  | .command => match p.dcDataLevel with
    | .low => .high
    | .high => .low

/-- The parameters with the defaults of 00_scope.md R9 and a given table (log 2). -/
def Params.withTable (table : List TableEntry) : Params where
  chunkMax := Config.chunkDefault
  transportMax := Config.chunkDefault + Config.transportHeadroom
  initTable := table
  cmdCaset := 0x2A#8
  cmdRaset := 0x2B#8
  cmdRamwr := 0x2C#8
  cmdSlpout := 0x11#8
  cmdDispon := 0x29#8
  dcDataLevel := .high
  it1 := Config.vendorTableIt1
  it2 := Config.vendorTableIt2

/-- The parameters the machine is instantiated with at reset: the defaults, and a free table less any entry that
10_state.md R21 rules out (log 2). -/
def Params.instantiated : Params :=
  Params.withTable (Config.vendorTable.filter (Params.withTable []).entryOk)

end Sys2Proof
end

