-- ==== Sys2Proof/Syntax.lean ====
section
/-! DEFINITION. The instructions: one constructor per row of spec/opcode_table.json (30_encoding.md R103). -/

namespace Sys2Proof

/-- The sixteen rows of the opcode table. -/
inductive Instr where
  /-- INIT, host request, OP 1 (40_controller_protocol.md R121). -/
  | init
  /-- RENDER, host request, OP 2 (41_frame_transfer.md R170). -/
  | render
  /-- CLEAR, host request, OP 3 (41_frame_transfer.md R175). -/
  | clear
  /-- SETWINDOW, host request, OP 4; `xe`, `ye` exclusive (40_controller_protocol.md R131). -/
  | setwindow (xs ys xe ye : Coord)
  /-- WINDOW, sub-operation 0x4: its window is the window latches (40_controller_protocol.md R130, 10_state.md R38). -/
  | window
  /-- RESET, sub-operation 0x8 (40_controller_protocol.md R120). -/
  | reset
  /-- ENCODE, sub-operation 0x9 (41_frame_transfer.md R152). -/
  | encode
  /-- TRANSFER, sub-operation 0xA: its bytes are all of NB (41_frame_transfer.md R161). -/
  | transfer
  /-- FILL, sub-operation 0xB (41_frame_transfer.md R176). -/
  | fill
  /-- TABLE, sub-operation 0xC: the initialization table and the tail (10_state.md R26; R122, R123). -/
  | table
  /-- CASET, panel command: the two low parameter bytes, `start = xs` and `last = xe - 1`
  (40_controller_protocol.md R132; log 19). -/
  | caset (start last : Byte)
  /-- RASET, panel command: `start = ys`, `last = ye - 1` (40_controller_protocol.md R133; log 19). -/
  | raset (start last : Byte)
  /-- RAMWR, panel command (40_controller_protocol.md R134). -/
  | ramwr
  /-- SLPOUT, panel command (40_controller_protocol.md R135). -/
  | slpout
  /-- DISPON, panel command (40_controller_protocol.md R136). -/
  | dispon
  /-- INIT_TABLE[k], a vendor command of the initialization table: its entry's command byte, parameters and
  optional delay (40_controller_protocol.md R137, 10_state.md R21). -/
  | initTable (cmd : Byte) (params : List Byte) (delay : Option Nat)
deriving DecidableEq, Repr, Inhabited

end Sys2Proof
end

