-- ==== Sys2Proof/Machine/State.lean ====
section
/-! DEFINITION. The state: everything 10_state.md and 40_controller_protocol.md R140 give the machine, as plain
data, with the machine's inputs (the host's calls, the transport's answers, the presented image) beside it. -/

namespace Sys2Proof.Machine

/-- PHASE (10_state.md R26): IDLE, or the running request. `Phase.code` gives the four bits (log 22). -/
inductive Phase where
  | idle
  | init
  | render
  | clear
  | setwindow
deriving DecidableEq, Repr, Inhabited

/-- SUB (10_state.md R26): the sub-operation whose transactions are being issued. `Sub.code` gives the four bits. -/
inductive Sub where
  | none
  | window
  | reset
  | encode
  | transfer
  | fill
  | table
deriving DecidableEq, Repr, Inhabited

/-- STATUS (10_state.md R29): the codes 0 to 5 of 60_exceptions.md R180. `Status.code` gives the three bits; the
reserved codes 6 and 7 are never returned and have no value here. -/
inductive Status where
  | ok
  | transportFailure
  | dimensionMismatch
  | invalidWindow
  | illegalRequest
  | notInitialized
deriving DecidableEq, Repr, Inhabited

/-- DC_SHADOW (10_state.md R30). -/
inductive DcShadow where
  | unknown
  | command
  | data
deriving DecidableEq, Repr, Inhabited

/-- RST_SHADOW (10_state.md R31). -/
inductive RstShadow where
  | unknown
  | low
  | high
deriving DecidableEq, Repr, Inhabited

/-- The native buffer's contents (20_memory.md R52): the bytes that differ from what an unlisted index reads as,
by strictly rising index (log 6). -/
abbrev Memory := List Host.Cell

/-- The image source port (20_memory.md R51): the descriptor `(W, H, C)`, and the channel bytes in row-major
order, channel `c` of pixel `(x, y)` at place `(y*W + x)*C + c`. A byte past the list's end is a free value. The
image is stable when it does not change during the request (20_memory.md R69; log 5). -/
structure Image where
  width    : Nat
  height   : Nat
  channels : Nat
  bytes    : List Byte
  stable   : Bool
deriving DecidableEq, Repr, Inhabited

/-- One call of the driver surface by the host (30_encoding.md R80, R101): a request word, or a call by name. A
coordinate of a call is any integer; only 0..4095 has a word (R83). -/
inductive HostCall where
  | word (w : ReqWord)
  | init
  | render
  | clear
  | setWindow (xs ys xe ye : Int)
deriving DecidableEq, Repr, Inhabited

/-- A call, and the image the image source presents with it where it presents a new one (log 4, log 5). -/
structure HostRequest where
  call  : HostCall
  image : Option Image
deriving DecidableEq, Repr, Inhabited

/-- The observer's armed window (40_controller_protocol.md R140): inclusive bounds, the index of the next pixel,
and the pending high byte. -/
structure Armed where
  x0 : Nat
  y0 : Nat
  x1 : Nat
  y1 : Nat
  j  : Nat
  hi : Option Byte
deriving DecidableEq, Repr, Inhabited

/-- The address command the last entry was, whose parameters are still to come (the observer's "followed by",
40_controller_protocol.md R141; log 13). -/
inductive Expect where
  | nothing
  | col
  | row
deriving DecidableEq, Repr, Inhabited

/-- The panel observer (40_controller_protocol.md R140). `gram` lists the known pixels by strictly rising place
`y*240 + x`; an unlisted pixel is UNKNOWN. -/
structure Panel where
  configured : Bool
  col        : Option (Byte × Byte)
  row        : Option (Byte × Byte)
  armed      : Option Armed
  expect     : Expect
  gram       : List (Nat × Pixel)
deriving DecidableEq, Repr, Inhabited

/-- The machine. -/
structure State where
  /-- The parameters; no step writes them (log 1). -/
  params     : Params
  /-- REQ (R24). -/
  req        : ReqWord
  /-- The window latches (R25). -/
  wxs        : Coord
  wys        : Coord
  wxe        : Coord
  wye        : Coord
  /-- PHASE and SUB (R26). -/
  phase      : Phase
  sub        : Sub
  /-- TL and SEQ (R27). -/
  tl         : List Txn
  seq        : Nat
  /-- INIT_DONE (R28). -/
  initDone   : Bool
  /-- STATUS (R29). -/
  status     : Status
  /-- DC_SHADOW (R30). -/
  dcShadow   : DcShadow
  /-- RST_SHADOW (R31). -/
  rstShadow  : RstShadow
  /-- NB (R32). -/
  nb         : Memory
  /-- RESP, and whether it is valid (R33). -/
  resp       : Option (BitVec 8)
  /-- LOG (R34), oldest entry first. -/
  log        : List LogEntry
  /-- The panel observer (R35, R140). -/
  panel      : Panel
  /-- The image the image source presents (R51). -/
  image      : Image
  /-- MODEL: the calls the host still makes; the first is the one presented (log 4). -/
  host       : List HostRequest
  /-- MODEL: the transport's next answers; when none is listed the outcome is a free draw (log 3). -/
  transport  : List TxnOutcome
  /-- MODEL: the counter of ENCODE runs that free pixel values are drawn with (log 5). -/
  draws      : Nat
  /-- MODEL: an internal operation placed for direct execution (log 7). -/
  ir         : Option Encoded
deriving DecidableEq, Repr, Inhabited

/-- Where the machine stops with a fault. -/
inductive Fault where
  /-- Raised by a step while PHASE is not 0 and TL has no entry at SEQ; 10_state.md R27 says SEQ stops at len(TL).
  No run from reset reaches it (safe; log 24). -/
  | seqOutOfRange
  /-- Raised by an access to NB past index 115199, which 20_memory.md R52 rules out; no instruction makes one
  (safe; log 24). -/
  | bufferIndexOutOfRange
deriving DecidableEq, Repr

/-- Where the model gives no meaning. -/
inductive Refusal where
  /-- An instruction that has no meaning yet, by its mnemonic (safe). -/
  | notModelled (mnemonic : String)
  /-- A host request executed while PHASE is not 0: the port is not ready and accepts none (30_encoding.md R85; D2:
  no move in the model). A step never executes one there (safe; log 14). -/
  | requestWhileBusy
  /-- A host call with a coordinate that has no word, refused at the host boundary (30_encoding.md R83, D6, U12)
  (safe; log 20). -/
  | unencodableCoordinate
  /-- The internal slot holds a form that decodes to no instruction; only withFetchWord fills the slot (safe; log
  28). -/
  | undecodableInternal
deriving DecidableEq, Repr

/-- The outcomes of this machine. -/
abbrev Result := Host.Outcome State Fault Refusal

/-- The observer that knows nothing (40_controller_protocol.md R140 initial value, R141 on reset, R144). -/
def Panel.unknown : Panel where
  configured := false
  col := none
  row := none
  armed := none
  expect := .nothing
  gram := []

/-- The image at reset: the panel's size, three channels, every pixel a free value (log 5). -/
def Image.free : Image where
  width := Config.width
  height := Config.height
  channels := Config.minChannels
  bytes := []
  stable := true

/-- The machine right after sequencer reset (10_state.md R39, 70_reset_and_hazards.md R210, R212; the
model's own fields: log 29). -/
def State.reset : State where
  params := Params.instantiated
  req := 0#64
  wxs := 0#12
  wys := 0#12
  wxe := 0#12
  wye := 0#12
  phase := .idle
  sub := .none
  tl := []
  seq := 0
  initDone := false
  status := .ok
  dcShadow := .unknown
  rstShadow := .unknown
  nb := []
  resp := none
  log := []
  panel := Panel.unknown
  image := Image.free
  host := []
  transport := []
  draws := 0
  ir := none

end Sys2Proof.Machine
end

