-- ==== Sys2Proof/Machine/Flags.lean ====
section
/-! DEFINITION. The codes of the state registers, the response word, the shadows of the two lines, and which
sub-operation an index of TL belongs to. -/

namespace Sys2Proof.Machine

/-- PHASE's four bits: 0, or the OP code of the running request (10_state.md R26, 30_encoding.md R81). -/
def Phase.code : Phase → BitVec 4
  | .idle => 0#4
  | .init => 1#4
  | .render => 2#4
  | .clear => 3#4
  | .setwindow => 4#4

/-- SUB's four bits (10_state.md R26). -/
def Sub.code : Sub → BitVec 4
  | .none => 0x0#4
  | .window => 0x4#4
  | .reset => 0x8#4
  | .encode => 0x9#4
  | .transfer => 0xA#4
  | .fill => 0xB#4
  | .table => 0xC#4

/-- STATUS's three bits (60_exceptions.md R180). -/
def Status.code : Status → BitVec 3
  | .ok => 0#3
  | .transportFailure => 1#3
  | .dimensionMismatch => 2#3
  | .invalidWindow => 3#3
  | .illegalRequest => 4#3
  | .notInitialized => 5#3

/-- The status a code stands for; 6 and 7 are reserved and stand for none (60_exceptions.md R180, U14). -/
def Status.ofCode? (c : BitVec 3) : Option Status :=
  if c = 0#3 then some .ok
  else if c = 1#3 then some .transportFailure
  else if c = 2#3 then some .dimensionMismatch
  else if c = 3#3 then some .invalidWindow
  else if c = 4#3 then some .illegalRequest
  else if c = 5#3 then some .notInitialized
  else none

/-- The response word `RSV[7:4] = 0, ID[3], ST[2:0]` (30_encoding.md R84), `(INIT_DONE << 3) | s`
(60_exceptions.md R186). -/
def respWord (initDone : Bool) (s : Status) : BitVec 8 :=
  (BitVec.ofBool initDone).setWidth 8 <<< 3 ||| s.code.setWidth 8

/-- What a response word tells the host: the status, and INIT_DONE. A word with a reserved code or a reserved bit set
tells nothing (30_encoding.md R84, U14). -/
def readResponse (r : BitVec 8) : Option (Status × Bool) :=
  if r.extractLsb' 4 4 = 0#4 then (Status.ofCode? (r.extractLsb' 0 3)).map fun s => (s, r.getLsbD 3) else none

/-- The shadow of a line state. -/
def DcShadow.of : DcState → DcShadow
  | .command => .command
  | .data => .data

/-- The shadow of a level. -/
def RstShadow.of : Level → RstShadow
  | .low => .low
  | .high => .high

/-- DC_SHADOW after a transaction (40_controller_protocol.md R112). `PIN(DC, COMMAND)` is never issued (R93); it
would leave the line in command state (log 23). 10_state.md R30 says of a FAIL outcome without more that it makes
DC_SHADOW UNKNOWN, and R112 lists only the FAIL of a CMD, DATA or PIN(DC): that the FAIL of a SLEEP or PIN(RST) leaves
it as it was is the model's reading (DEDUCED, log 34). -/
def nextDcShadow (d : DcShadow) (t : Txn) (o : TxnOutcome) : DcShadow :=
  match t, o with
  | .cmd _, .ok => .command
  | .data _, .ok => .data
  | .pinDc l, .ok => DcShadow.of l
  | .cmd _, .fail => .unknown
  | .data _, .fail => .unknown
  | .pinDc _, .fail => .unknown
  | .pinRst _, _ => d
  | .sleep _, _ => d

/-- RST_SHADOW after a transaction (40_controller_protocol.md R112). -/
def nextRstShadow (r : RstShadow) (t : Txn) (o : TxnOutcome) : RstShadow :=
  match t, o with
  | .pinRst l, .ok => RstShadow.of l
  | .pinRst _, .fail => .unknown
  | .cmd _, _ => r
  | .data _, _ => r
  | .pinDc _, _ => r
  | .sleep _, _ => r

/-- How many transactions RESET and WINDOW contribute (40_controller_protocol.md R120, R130). -/
def resetCount : Nat := 6
def windowCount : Nat := 5

/-- The sub-operation the transaction at index `n` of a request's list belongs to (10_state.md R26; log 15). -/
def subAt (ph : Phase) (n : Nat) : Sub :=
  match ph with
  | .idle => .none
  | .init => if n < resetCount then .reset else .table
  | .setwindow => .window
  | .render => if n < windowCount then .window else .transfer
  | .clear => if n < windowCount then .window else .transfer

end Sys2Proof.Machine
end

