-- ==== Sys2Proof/Machine/Memory.lean ====
section
/-! DEFINITION. Sparse contents by place, in one canonical form: the native buffer (20_memory.md R52) and the
observer's pixels (40_controller_protocol.md R140). -/

namespace Sys2Proof.Machine

/-! ## Lists of places and values, places strictly rising -/

/-- The value at a place, if listed. -/
def Cells.get? {α : Type} : List (Nat × α) → Nat → Option α
  | [], _ => none
  | (k, v) :: m, a => if k = a then some v else Cells.get? m a

/-- Put a value at a place. -/
def Cells.put {α : Type} : List (Nat × α) → Nat → α → List (Nat × α)
  | [], a, b => [(a, b)]
  | (k, v) :: m, a, b =>
    if a < k then (a, b) :: (k, v) :: m
    else if a = k then (a, b) :: m
    else (k, v) :: Cells.put m a b

/-- Take a place off the list. -/
def Cells.erase {α : Type} : List (Nat × α) → Nat → List (Nat × α)
  | [], _ => []
  | (k, v) :: m, a => if k = a then m else (k, v) :: Cells.erase m a

/-- The places rise strictly and lie from `lo` on. -/
def Cells.rising {α : Type} : Nat → List (Nat × α) → Bool
  | _, [] => true
  | lo, (k, _) :: m => decide (lo ≤ k) && Cells.rising (k + 1) m

/-- Every place is below a bound. -/
def Cells.below {α : Type} (bound : Nat) (m : List (Nat × α)) : Bool :=
  m.all fun c => decide (c.1 < bound)

/-! ## The native buffer -/

/-- What an index that nothing has written reads as. The spec gives no value (10_state.md R39, U5): DESIGN CHOICE
(log 6). -/
def Memory.unlisted : Byte := 0x00#8

/-- The byte at an index. -/
def Memory.read (m : Memory) (a : Nat) : Byte := (Cells.get? m a).getD Memory.unlisted

/-- Write one byte, keeping the canonical form. -/
def Memory.write (m : Memory) (a : Nat) (b : Byte) : Memory :=
  if b = Memory.unlisted then Cells.erase m a else Cells.put m a b

/-- Write the `n` bytes `f 0, …, f (n-1)` from index `i` on. -/
def Memory.writeRun (m : Memory) (i : Nat) : (n : Nat) → (f : Nat → Byte) → Memory
  | 0, _ => m
  | n + 1, f => Memory.writeRun (m.write (i + n) (f n)) i n f

/-- Read the `n` bytes from index `i` on. -/
def Memory.readRun (m : Memory) (i n : Nat) : List Byte := (List.range n).map fun k => m.read (i + k)

/-- The canonical form of the native buffer: indexes strictly rising and below NB_SIZE, and no entry equal to what
an unlisted index reads as. -/
def Memory.wf (m : Memory) : Bool :=
  Cells.rising 0 m && Cells.below Config.nbSize m && m.all fun c => c.2 != Memory.unlisted

end Sys2Proof.Machine
end

