-- ==== Sys2Proof/Decode.lean ====
section
/-! DEFINITION. The decoder, total on every encoded form and rejecting by name, and after it the encoder,
written from the same tables (30_encoding.md R80-R83, R96-R99, R104; 10_state.md R26). -/

namespace Sys2Proof

/-- Why an encoded form is no instruction. -/
inductive Reject where
  /-- OP 0x0, 0x5..0x7, 0xD..0xF (R81). -/
  | reservedOp
  /-- OP 0x8..0xC: an internal sub-operation, not host-issuable (R81). -/
  | internalOp
  /-- A reserved or unused field of the request is not 0 (R82). -/
  | reservedField
  /-- A SUB code that names no sub-operation (10_state.md R26). -/
  | noSubOperation
  /-- The transactions are not one panel command (R96, R98). -/
  | notAFrame
deriving DecidableEq, Repr

/-! ## Host requests -/

/-- The field `v[lo+n-1:lo]` of a request word (00_scope.md R12). -/
def reqField (w : ReqWord) (lo n : Nat) : BitVec n := w.extractLsb' lo n

/-- OP, bits [3:0] (R80). -/
def opField (w : ReqWord) : BitVec 4 := reqField w 0 4

/-- The mask of SETWINDOW's fixed bits: OP, RSV0, RSV1 (R82). -/
def setwindowMask : ReqWord := 0xF000000000000FFF#64

/-- The reason a word that is no request is rejected for (R81, R82, R99). -/
def rejectOf (w : ReqWord) : Reject :=
  let op := (opField w).toNat
  if 1 ≤ op ∧ op ≤ 4 then .reservedField
  else if 8 ≤ op ∧ op ≤ 12 then .internalOp
  else .reservedOp

/-- The decoder of request words (R82, R83, R104). -/
def decodeRequest (w : ReqWord) : Except Reject Instr :=
  if w = 0x0000000000000001#64 then .ok .init
  else if w = 0x0000000000000002#64 then .ok .render
  else if w = 0x0000000000000003#64 then .ok .clear
  else if w &&& setwindowMask = 0x0000000000000004#64 then
    .ok (.setwindow (reqField w 12 12) (reqField w 24 12) (reqField w 36 12) (reqField w 48 12))
  else .error (rejectOf w)

/-! ## Internal sub-operations -/

/-- The decoder of SUB codes (10_state.md R26). -/
def decodeSubop (c : BitVec 4) : Except Reject Instr :=
  if c = 0x4#4 then .ok .window
  else if c = 0x8#4 then .ok .reset
  else if c = 0x9#4 then .ok .encode
  else if c = 0xA#4 then .ok .transfer
  else if c = 0xB#4 then .ok .fill
  else if c = 0xC#4 then .ok .table
  else .error .noSubOperation

/-! ## Panel commands -/

/-- One panel command as the stream carries it: the command byte, the bytes of the DATAs right after it, and the
SLEEP right after those (R96, R98; R122, log 9). -/
structure RawFrame where
  cmd    : Byte
  params : List Byte
  delay  : Option Nat
deriving DecidableEq, Repr

/-- Take a leading SLEEP off a stream. -/
def takeSleep : List Txn → Option Nat × List Txn
  | .sleep ms :: rest => (some ms, rest)
  | ts => (none, ts)

/-- Take all leading DATAs off a stream, their bytes as one list: a frame runs on over every DATA (R98), and how its
bytes are grouped does not matter (R96; log 33). -/
def takeData : List Txn → List Byte × List Txn
  | .data bs :: rest => (bs ++ (takeData rest).1, (takeData rest).2)
  | ts => ([], ts)

/-- The first panel command of a transaction stream, and the rest: a frame starts at each CMD and runs until the next
CMD, PIN or SLEEP (R98); a SLEEP right after it is the command's delay (log 9). -/
def takeFrame : List Txn → Option (RawFrame × List Txn)
  | .cmd c :: rest =>
    some ({ cmd := c, params := (takeData rest).1, delay := (takeSleep (takeData rest).2).1 },
      (takeSleep (takeData rest).2).2)
  | _ => none

/-- CASET and RASET as R97 lays out their parameters: `0x00, start, 0x00, last`, no delay. -/
def addressOperands (f : RawFrame) : Option (Byte × Byte) :=
  match f.params, f.delay with
  | [h0, s, h1, e], none => if h0 = 0x00#8 ∧ h1 = 0x00#8 then some (s, e) else none
  | _, _ => none

/-- The command of R97 that a frame is, where it has the whole form of one of the five named ones. R98 gives a frame
only its length: that a frame with a named command byte which is cut off or has other parameters or another SLEEP (as
CMD_SLPOUT without its SLEEP, after a FAIL) is none of the five is the model's choice (DESIGN CHOICE, log 31). -/
def namedCommand (p : Params) (f : RawFrame) : Option Instr :=
  if f.cmd = p.cmdCaset then (addressOperands f).map fun o => .caset o.1 o.2
  else if f.cmd = p.cmdRaset then (addressOperands f).map fun o => .raset o.1 o.2
  else if f.cmd = p.cmdRamwr then if f.params = [] ∧ f.delay = none then some .ramwr else none
  else if f.cmd = p.cmdSlpout then
    if f.params = [] ∧ f.delay = some Config.tSlpout then some .slpout else none
  else if f.cmd = p.cmdDispon then
    if f.params = [] ∧ f.delay = some Config.tDispon then some .dispon else none
  else none

/-- The panel command of a frame: a named one, else the vendor command it spells (R97, R137). A frame with a named
command byte but not that command's whole form is read as INIT_TABLE too, although 10_state.md R21 keeps sleep-out
and display-on out of the table (DESIGN CHOICE, log 31). -/
def commandOf (p : Params) (f : RawFrame) : Instr :=
  (namedCommand p f).getD (.initTable f.cmd f.params f.delay)

/-- The first panel command of a stream of transactions, and the rest of the stream. -/
def decodeStream (p : Params) (ts : List Txn) : Except Reject (Instr × List Txn) :=
  match takeFrame ts with
  | some (f, rest) => .ok (commandOf p f, rest)
  | none => .error .notAFrame

/-- The decoder of one panel command. -/
def decodeFrame (p : Params) (ts : List Txn) : Except Reject Instr :=
  match decodeStream p ts with
  | .ok (i, []) => .ok i
  | .ok (_, _ :: _) => .error .notAFrame
  | .error r => .error r

/-- The decoder of the three formats (R103). -/
def decode (p : Params) : Encoded → Except Reject Instr
  | .request w => decodeRequest w
  | .subop c => decodeSubop c
  | .frame ts => decodeFrame p ts

/-! ## The encoder -/

/-- The word of a SETWINDOW request (R80, R82). -/
def setwindowWord (xs ys xe ye : Coord) : ReqWord :=
  (0x0#4 : BitVec 4) ++ ye ++ xe ++ ys ++ xs ++ (0x00#8 : BitVec 8) ++ (0x4#4 : BitVec 4)

/-- `frame(c, ps)` of R96. -/
def frame (c : Byte) (ps : List Byte) : List Txn :=
  .cmd c :: (if ps = [] then [] else [.data ps])

/-- The SLEEP of an optional delay (R122). -/
def sleepOf : Option Nat → List Txn
  | some ms => [.sleep ms]
  | none => []

/-- The parameters of an address-set command, high byte first (20_memory.md R56, R97). -/
def addressParams (start last : Byte) : List Byte := [0x00#8, start, 0x00#8, last]

/-- CASET's transactions (R132). -/
def casetTxns (p : Params) (start last : Byte) : List Txn := frame p.cmdCaset (addressParams start last)
/-- RASET's transactions (R133). -/
def rasetTxns (p : Params) (start last : Byte) : List Txn := frame p.cmdRaset (addressParams start last)
/-- RAMWR's transaction (R134). -/
def ramwrTxns (p : Params) : List Txn := frame p.cmdRamwr []
/-- SLPOUT's transactions: the command, followed by `SLEEP(120)` (R135). -/
def slpoutTxns (p : Params) : List Txn := frame p.cmdSlpout [] ++ [.sleep Config.tSlpout]
/-- DISPON's transactions: the command, followed by `SLEEP(20)` (R136). -/
def disponTxns (p : Params) : List Txn := frame p.cmdDispon [] ++ [.sleep Config.tDispon]
/-- A vendor command's transactions: its frame, then its optional SLEEP (R137, R122). -/
def vendorTxns (c : Byte) (ps : List Byte) (delay : Option Nat) : List Txn := frame c ps ++ sleepOf delay

/-- The encoder: every instruction in its row's format. -/
def encode (p : Params) : Instr → Encoded
  | .init => .request 0x0000000000000001#64
  | .render => .request 0x0000000000000002#64
  | .clear => .request 0x0000000000000003#64
  | .setwindow xs ys xe ye => .request (setwindowWord xs ys xe ye)
  | .window => .subop 0x4#4
  | .reset => .subop 0x8#4
  | .encode => .subop 0x9#4
  | .transfer => .subop 0xA#4
  | .fill => .subop 0xB#4
  | .table => .subop 0xC#4
  | .caset s e => .frame (casetTxns p s e)
  | .raset s e => .frame (rasetTxns p s e)
  | .ramwr => .frame (ramwrTxns p)
  | .slpout => .frame (slpoutTxns p)
  | .dispon => .frame (disponTxns p)
  | .initTable c ps d => .frame (vendorTxns c ps d)

/-! ## The words of the opcode table -/

/-- A panel command row laid out from its command byte, operand bytes zero: the byte as a CMD, the parameter
bytes R97 gives it as a DATA, and the SLEEP that R135 and R136 put after it. -/
def tableFrame (p : Params) (b : Byte) : List Txn :=
  if b = p.cmdCaset ∨ b = p.cmdRaset then frame b (addressParams 0x00#8 0x00#8)
  else if b = p.cmdSlpout then frame b [] ++ [.sleep Config.tSlpout]
  else if b = p.cmdDispon then frame b [] ++ [.sleep Config.tDispon]
  else frame b []

/-- A word of the opcode table in its row's format. More than eight bits is a request word. A byte is the SUB code
it spells, where it spells one, and else a command byte (log 18). -/
def tableWord (nbits w : Nat) : Encoded :=
  if nbits > 8 then .request (BitVec.ofNat 64 w)
  else if w = 4 ∨ (8 ≤ w ∧ w ≤ 12) then .subop (BitVec.ofNat 4 w)
  else .frame (tableFrame (Params.withTable []) (BitVec.ofNat 8 w))

/-- The instruction the decoder reads from a word of the opcode table. The command bytes are the defaults of
00_scope.md R9, which the table's rows show. -/
def decodeTableWord (nbits w : Nat) : Option Instr :=
  (decode (Params.withTable []) (tableWord nbits w)).toOption

end Sys2Proof
end

