-- ==== Sys2Proof/Machine/Operands.lean ====
section
/-! DEFINITION. The operands of the requests and what is computed from them: host calls and their words, the
window check, the image source's reads, pixel packing, chunking, and the transaction list each operation
contributes. -/

namespace Sys2Proof.Machine

/-! ## Host calls -/

/-- A coordinate that a request field can hold (30_encoding.md R83). -/
def encodableCoord (v : Int) : Bool := decide (0 ≤ v) && decide (v ≤ 4095)

/-- A coordinate as its field. -/
def coordOf (v : Int) : Coord := BitVec.ofNat 12 v.toNat

/-- The word a call assembles to (30_encoding.md R80, R81, R101); none where a coordinate has no field (R83). -/
def HostCall.toWord? : HostCall → Option ReqWord
  | .word w => some w
  | .init => some 0x0000000000000001#64
  | .render => some 0x0000000000000002#64
  | .clear => some 0x0000000000000003#64
  | .setWindow xs ys xe ye =>
    if encodableCoord xs && encodableCoord ys && encodableCoord xe && encodableCoord ye then
      some (setwindowWord (coordOf xs) (coordOf ys) (coordOf xe) (coordOf ye))
    else none

/-! ## Windows -/

/-- The window check (40_controller_protocol.md R131). -/
def windowOk (xs ys xe ye : Coord) : Bool :=
  decide (xs.toNat < xe.toNat) && decide (xe.toNat ≤ Config.width) &&
  decide (ys.toNat < ye.toNat) && decide (ye.toNat ≤ Config.height)

/-- The low byte of a start coordinate (20_memory.md R56). -/
def startByte (v : Coord) : Byte := v.setWidth 8

/-- The low byte of an exclusive end coordinate less one (20_memory.md R56, 40_controller_protocol.md R130). -/
def lastByte (v : Coord) : Byte := (v - 1#12).setWidth 8

/-- The full-panel bounds (41_frame_transfer.md R170). -/
def fullXe : Coord := BitVec.ofNat 12 Config.width
def fullYe : Coord := BitVec.ofNat 12 Config.height

/-! ## The source image -/

/-- The descriptor that ENCODE accepts (41_frame_transfer.md R152, R153). -/
def Image.fits (img : Image) : Bool :=
  decide (img.width = Config.width) && decide (img.height = Config.height) &&
  decide (Config.minChannels ≤ img.channels)

/-- The place of a channel in the raster, row-major (20_memory.md R51). -/
def Image.place (img : Image) (x y c : Nat) : Nat := (y * img.width + x) * img.channels + c

/-- `Img_Read(x, y, c)` at the `draw`-th ENCODE (20_memory.md R51, R69; U6; log 5). -/
def Image.read (img : Image) (draw x y c : Nat) : Byte :=
  match img.stable with
  | true => (img.bytes[img.place x y c]?).getD (Config.freePixel draw x y c)
  | false => Config.freePixel draw x y c

/-! ## Pixel packing -/

/-- `hi` of Pack (41_frame_transfer.md R150). -/
def packHi (r g : Byte) : Byte := (r &&& 0xF8#8) ||| (g >>> 5)

/-- `lo` of Pack (41_frame_transfer.md R150). The shift drops bits of `g` that the mask drops. -/
def packLo (g b : Byte) : Byte := ((g <<< 3) &&& 0xE0#8) ||| (b >>> 3)

/-- The 16-bit native value `P(r, g, b) = (hi << 8) | lo` (41_frame_transfer.md R150). -/
def packPixel (r g b : Byte) : Pixel := packHi r g ++ packLo g b

/-- Byte `i` of the encoded frame: pixel `i / 2` in row-major order, its high byte first (20_memory.md R52, R55;
41_frame_transfer.md R152). -/
def frameByte (img : Image) (draw i : Nat) : Byte :=
  let x := i / 2 % Config.width
  let y := i / 2 / Config.width
  if i % 2 = 0 then packHi (img.read draw x y 0) (img.read draw x y 1)
  else packLo (img.read draw x y 1) (img.read draw x y 2)

/-- The byte FILL writes (41_frame_transfer.md R176). -/
def fillByte : Byte := 0xFF#8

/-! ## The lists the operations contribute -/

/-- `ceil(L / C)` (00_scope.md R12). -/
def ceilDiv (l c : Nat) : Nat := (l + c - 1) / c

/-- `Chunks(bs, C)` (41_frame_transfer.md R160). -/
def chunks (bs : List Byte) (c : Nat) : List (List Byte) :=
  (List.range (ceilDiv bs.length c)).map fun k => (bs.drop (k * c)).take c

/-- RESET's list (40_controller_protocol.md R120). -/
def resetList : List Txn :=
  [.pinRst .high, .sleep Config.tRst, .pinRst .low, .sleep Config.tRst, .pinRst .high, .sleep Config.tRst]

/-- The table's list (40_controller_protocol.md R122). -/
def tableList (p : Params) : List Txn := p.initTable.flatMap fun e => vendorTxns e.cmd e.params e.delay

/-- The tail's list (40_controller_protocol.md R123). -/
def tailList (p : Params) : List Txn := slpoutTxns p ++ disponTxns p

/-- The window sequence (40_controller_protocol.md R130). -/
def windowList (p : Params) (xs ys xe ye : Coord) : List Txn :=
  casetTxns p (startByte xs) (lastByte xe) ++ rasetTxns p (startByte ys) (lastByte ye) ++ ramwrTxns p

/-- TRANSFER's list (41_frame_transfer.md R161). -/
def transferList (p : Params) (bs : List Byte) : List Txn :=
  .pinDc .data :: (chunks bs p.chunkMax).map .data

end Sys2Proof.Machine
end

