-- ==== Sys2Proof/Machine/Panel.lean ====
section
/-! DEFINITION. The panel observer (40_controller_protocol.md R140-R145): what the emitted transactions mean on the
panel's side. -/

namespace Sys2Proof.Machine

/-- Every pixel becomes UNKNOWN (40_controller_protocol.md R141). -/
def Panel.forget (p : Panel) : Panel := { p with gram := [] }

/-- The place of a pixel in the observer's list. -/
def gramPlace (x y : Nat) : Nat := y * Config.width + x

/-- `gram(x, y)`; none is UNKNOWN (40_controller_protocol.md R140). -/
def Panel.pixel (p : Panel) (x y : Nat) : Option Pixel := Cells.get? p.gram (gramPlace x y)

/-- Arm the panel for the ranges set, or forget (40_controller_protocol.md R141, CMD_RAMWR). -/
def Panel.arm (p : Panel) : Panel :=
  match p.col, p.row with
  | some (x0, x1), some (y0, y1) =>
    { p with armed := some ⟨x0.toNat, y0.toNat, x1.toNat, y1.toNat, 0, none⟩, expect := .nothing }
  | _, _ => Panel.forget { p with armed := none, expect := .nothing }

/-- A command byte seen by the observer (40_controller_protocol.md R141). An address command forgets its range
until its parameters follow. -/
def Panel.command (c : Params) (p : Panel) (b : Byte) : Panel :=
  if b = c.cmdCaset then { p with col := none, armed := none, expect := .col }
  else if b = c.cmdRaset then { p with row := none, armed := none, expect := .row }
  else if b = c.cmdRamwr then p.arm
  else Panel.forget { p with armed := none, expect := .nothing }

/-- Write the `j`-th pixel of an armed window, where it lies in the window and on the panel; else forget
(40_controller_protocol.md R142, R143; log 13). A range whose last is below its start has no `w` or `h` in R142: here
the subtraction of natural numbers makes it 0, so every pair forgets (DESIGN CHOICE, log 32). -/
def Panel.plot (p : Panel) (a : Armed) (px : Pixel) : Panel :=
  let w := a.x1 + 1 - a.x0
  let h := a.y1 + 1 - a.y0
  let x := a.x0 + a.j % w
  let y := a.y0 + a.j / w
  if p.configured = true ∧ a.j < w * h ∧ x < Config.width ∧ y < Config.height then
    { p with gram := Cells.put p.gram (gramPlace x y) px }
  else p.forget

/-- One data byte while armed (40_controller_protocol.md R142): the first of a pair is kept, the second completes
the pixel, most significant byte first. -/
def Panel.byte (p : Panel) (b : Byte) : Panel :=
  match p.armed with
  | none => p.forget
  | some a =>
    match a.hi with
    | none => { p with armed := some { a with hi := some b } }
    | some h => { p.plot a (h ++ b) with armed := some { a with j := a.j + 1, hi := none } }

/-- Data bytes that are not the parameters of an address command (40_controller_protocol.md R141). -/
def Panel.pixelData (p : Panel) (bs : List Byte) : Panel :=
  match p.armed with
  | none => Panel.forget { p with expect := .nothing }
  | some _ => bs.foldl Panel.byte { p with expect := .nothing }

/-- The range that four parameter bytes set: `0x00, s, 0x00, e` (40_controller_protocol.md R141). -/
def rangeOf : List Byte → Option (Byte × Byte)
  | [h0, s, h1, e] => if h0 = 0x00#8 ∧ h1 = 0x00#8 then some (s, e) else none
  | _ => none

/-- A DATA transaction seen by the observer (40_controller_protocol.md R141). -/
def Panel.dataBytes (p : Panel) (bs : List Byte) : Panel :=
  match p.expect, rangeOf bs with
  | .col, some r => { p with col := some r, armed := none, expect := .nothing }
  | .row, some r => { p with row := some r, armed := none, expect := .nothing }
  | .col, none => p.pixelData bs
  | .row, none => p.pixelData bs
  | .nothing, _ => p.pixelData bs

/-- The observer's transition for one entry of LOG (40_controller_protocol.md R141, R144). -/
def Panel.observe (c : Params) (p : Panel) (t : Txn) (o : TxnOutcome) : Panel :=
  match o, t with
  | .fail, _ => Panel.unknown
  | .ok, .pinRst .low => Panel.unknown
  | .ok, .pinRst .high => { p with expect := .nothing }
  | .ok, .pinDc .data => { p with expect := .nothing }
  | .ok, .pinDc .command => Panel.forget { p with armed := none, expect := .nothing }
  | .ok, .sleep _ => { p with expect := .nothing }
  | .ok, .cmd b => p.command c b
  | .ok, .data bs => p.dataBytes bs

/-- The observer over a run of entries. -/
def Panel.observeAll (c : Params) (p : Panel) (es : List LogEntry) : Panel :=
  es.foldl (fun q e => q.observe c e.1 e.2) p

/-- What the panel shows at a pixel, as far as the spec says: the observer's value under the premises IT-1 and IT-2
(10_state.md R21, 40_controller_protocol.md R142), and nothing without them. -/
def Panel.shown (c : Params) (p : Panel) (x y : Nat) : Option Pixel :=
  if c.it1 && c.it2 then p.pixel x y else none

end Sys2Proof.Machine
end

