-- ==== Sys2Proof/Machine/Ops.lean ====
section
/-! DEFINITION. The shared operations: responding and raising an error (60_exceptions.md R184, R186), issuing a
transaction (40_controller_protocol.md R110, R112), acceptance (R113), the step of SEQ and completion (R114,
R115), and the accesses to NB (20_memory.md R52). -/

namespace Sys2Proof.Machine

/-! ## Ending a request -/

/-- `respond(s)` (60_exceptions.md R186). -/
def State.respond (s : State) (st : Status) : State :=
  { s with
    status := st
    resp := some (respWord s.initDone st)
    phase := .idle
    sub := .none
    tl := []
    seq := 0 }

/-- `raise E()` (60_exceptions.md R184): the one way an error ends a request. There is no handler, no vector and no
saved context. -/
def State.raise (s : State) (e : Status) : State :=
  State.respond { s with initDone := if s.phase = .init then false else s.initDone } e

/-- `Complete()` (40_controller_protocol.md R115), and the observer's `configured` at the entry that completes an
INIT (R145). -/
def State.complete (s : State) : State :=
  match s.phase with
  | .init => State.respond { s with initDone := true, panel := { s.panel with configured := true } } .ok
  | .idle => s.respond .ok
  | .render => s.respond .ok
  | .clear => s.respond .ok
  | .setwindow => s.respond .ok

/-! ## Issuing transactions -/

/-- The transport's outcome for the next transaction: its next listed answer, or a free draw
(40_controller_protocol.md R110, R111; log 3). -/
def State.outcome (s : State) (t : Txn) : TxnOutcome :=
  match s.transport with
  | o :: _ => o
  | [] => Config.txnOutcome s.log t

/-- The state after a transaction is issued with an outcome: LOG, the shadows and the observer
(40_controller_protocol.md R110, R112, R141). -/
def State.issued (s : State) (t : Txn) (o : TxnOutcome) : State :=
  { s with
    transport := s.transport.tail
    log := s.log ++ [(t, o)]
    dcShadow := nextDcShadow s.dcShadow t o
    rstShadow := nextRstShadow s.rstShadow t o
    panel := s.panel.observe s.params t o }

/-- The state after transactions that all came back OK. -/
def State.issuedAll (s : State) (ts : List Txn) : State := ts.foldl (fun s t => s.issued t .ok) s

/-- `emit(t)` for each of a list in order; the first FAIL raises TransportFailure and nothing after it is issued
(40_controller_protocol.md R110). -/
def State.emitAll : List Txn → State → State
  | [], s => s
  | t :: ts, s =>
    match s.outcome t with
    | .ok => State.emitAll ts (s.issued t .ok)
    | .fail => (s.issued t .fail).raise .transportFailure

/-! ## The step of a running request -/

/-- SEQ at an index of TL, and SUB as that index says (10_state.md R26, R27). -/
def State.moveTo (s : State) (n : Nat) : State := { s with seq := n, sub := subAt s.phase n }

/-- SUB while a sub-operation runs (10_state.md R26). -/
def State.mark (s : State) (c : Sub) : State := { s with sub := c }

/-- SEQ moves past `n` issued transactions; at the end of TL the request completes (40_controller_protocol.md R114). -/
def State.advance (s : State) (n : Nat) : State :=
  if s.seq + n = s.tl.length then (s.moveTo (s.seq + n)).complete else s.moveTo (s.seq + n)

/-- The execution step of R114 for the transaction at SEQ. -/
def State.issueNext (s : State) (t : Txn) : State :=
  match s.outcome t with
  | .ok => (s.issued t .ok).advance 1
  | .fail => (s.issued t .fail).raise .transportFailure

/-! ## Acceptance -/

/-- The request latch takes the word, and the last response is no longer valid (40_controller_protocol.md R113,
10_state.md R24, R33; log 17). -/
def State.latch (s : State) (w : ReqWord) : State := { s with req := w, resp := none }

/-- The window latches (10_state.md R25). -/
def State.setLatches (s : State) (xs ys xe ye : Coord) : State :=
  { s with wxs := xs, wys := ys, wxe := xe, wye := ye }

/-- The end of acceptance: TL, PHASE and SEQ (40_controller_protocol.md R113). -/
def State.start (s : State) (ph : Phase) (tl : List Txn) : State :=
  { s with phase := ph, sub := subAt ph 0, tl := tl, seq := 0 }

/-- A request is accepted only when the port is ready (30_encoding.md R85). -/
def State.whenReady (s : State) (r : Result) : Result :=
  if s.phase = .idle then r else .refused .requestWhileBusy

/-! ## The native buffer -/

/-- `NB_Write(i, n, bytes)` with the bytes as a function of their offset (20_memory.md R52). -/
def State.nbWrite (s : State) (i n : Nat) (f : Nat → Byte) : Result :=
  if i + n ≤ Config.nbSize then .next { s with nb := s.nb.writeRun i n f } else .fault .bufferIndexOutOfRange

/-- `NB_Read(i, n)` handed to what uses the bytes (20_memory.md R52). -/
def State.nbRead (s : State) (i n : Nat) (k : List Byte → Result) : Result :=
  if i + n ≤ Config.nbSize then k (s.nb.readRun i n) else .fault .bufferIndexOutOfRange

/-- Go on from a next state. -/
def andThen (r : Result) (k : State → Result) : Result :=
  match r with
  | .next s => k s
  | .fault f => .fault f
  | .refused q => .refused q

/-- ENCODE's writes for an image that fits (41_frame_transfer.md R152). -/
def State.encodeFrame (s : State) : Result :=
  State.nbWrite { s.mark .encode with draws := s.draws + 1 } 0 Config.nbSize (frameByte s.image s.draws)

/-- FILL's writes (41_frame_transfer.md R176). -/
def State.fillBuffer (s : State) : Result :=
  (s.mark .fill).nbWrite 0 Config.nbSize fun _ => fillByte

end Sys2Proof.Machine
end

