-- ==== Sys2Proof/Machine/PanelCommands.lean ====
section
/-! DEFINITION. The meanings of the panel commands (30_encoding.md R97): each issues the transactions that carry it,
in order, up to the first failure (log 8), and what it means on the panel's side is the observer's
(40_controller_protocol.md R141). -/

namespace Sys2Proof.Machine

/-- CASET, column-address-set (40_controller_protocol.md R132). -/
def execCaset (start last : Byte) (s : State) : Result := .next (State.emitAll (casetTxns s.params start last) s)

/-- RASET, row-address-set (40_controller_protocol.md R133). -/
def execRaset (start last : Byte) (s : State) : Result := .next (State.emitAll (rasetTxns s.params start last) s)

/-- RAMWR, memory-write (40_controller_protocol.md R134). -/
def execRamwr (s : State) : Result := .next (State.emitAll (ramwrTxns s.params) s)

/-- SLPOUT, sleep-out, and its settle delay (40_controller_protocol.md R135; log 9). -/
def execSlpout (s : State) : Result := .next (State.emitAll (slpoutTxns s.params) s)

/-- DISPON, display-on, and its settle delay (40_controller_protocol.md R136; log 9). -/
def execDispon (s : State) : Result := .next (State.emitAll (disponTxns s.params) s)

/-- INIT_TABLE[k], a vendor command sent verbatim, and its optional delay (40_controller_protocol.md R137; log 9). -/
def execInitTable (cmd : Byte) (params : List Byte) (delay : Option Nat) (s : State) : Result :=
  .next (State.emitAll (vendorTxns cmd params delay) s)

end Sys2Proof.Machine
end

