-- ==== Sys2Proof/Machine/Requests.lean ====
section
/-! DEFINITION. The meanings of the host requests: each is the acceptance of that request, in one step and before
any transaction (40_controller_protocol.md R113), with its checks in the order of 60_exceptions.md R188. -/

namespace Sys2Proof.Machine

/-- INIT (40_controller_protocol.md R121): no check; INIT_DONE is cleared; the list is reset, table, tail. -/
def execInit (s : State) : Result :=
  s.whenReady (.next
    (({ s with initDone := false }.latch 0x0000000000000001#64).start .init
      (resetList ++ tableList s.params ++ tailList s.params)))

/-- The list of RENDER and CLEAR: the full-panel window, then all of NB (41_frame_transfer.md R170, R175). -/
def State.startFrame (s : State) (ph : Phase) : Result :=
  s.nbRead 0 Config.nbSize fun bs =>
    .next ((s.setLatches 0#12 0#12 fullXe fullYe).start ph
      (windowList s.params 0#12 0#12 fullXe fullYe ++ transferList s.params bs))

/-- RENDER (41_frame_transfer.md R170): ENCODE with its dimension check (R153), then the check of INIT_DONE
(60_exceptions.md R183), then the frame. What NB holds after an error is log 12. -/
def execRender (s : State) : Result :=
  let s₁ := s.latch 0x0000000000000002#64
  s.whenReady
    (if s.image.fits then
      andThen s₁.encodeFrame fun s₂ =>
        if s.initDone then s₂.startFrame .render else .next (s₂.raise .notInitialized)
    else .next (s₁.raise .dimensionMismatch))

/-- CLEAR (41_frame_transfer.md R175): the check of INIT_DONE, then FILL (R176), then the frame. -/
def execClear (s : State) : Result :=
  let s₁ := s.latch 0x0000000000000003#64
  s.whenReady
    (if s.initDone then andThen s₁.fillBuffer fun s₂ => s₂.startFrame .clear
    else .next (s₁.raise .notInitialized))

/-- SETWINDOW (40_controller_protocol.md R131): the window check (60_exceptions.md R182), then the check of
INIT_DONE (R183), then the latches and the window sequence. -/
def execSetwindow (xs ys xe ye : Coord) (s : State) : Result :=
  let s₁ := s.latch (setwindowWord xs ys xe ye)
  s.whenReady (.next
    (if windowOk xs ys xe ye then
      if s.initDone then
        (s₁.setLatches xs ys xe ye).start .setwindow (windowList s.params xs ys xe ye)
      else s₁.raise .notInitialized
    else s₁.raise .invalidWindow))

/-- A word that decodes to no request: accepted and ended with IllegalRequest, with no transaction
(60_exceptions.md R181). -/
def acceptIllegal (w : ReqWord) (s : State) : State := (s.latch w).raise .illegalRequest

end Sys2Proof.Machine
end

