-- ==== Sys2Proof/Machine/SubOps.lean ====
section
/-! DEFINITION. The meanings of the internal sub-operations (10_state.md R26). One that contributes transactions
issues them all, in order, up to the first failure; a running request issues the same ones a step at a time
(log 8). -/

namespace Sys2Proof.Machine

/-- WINDOW (40_controller_protocol.md R130) for the window in the latches. Latches that fail the window check of
R131 have no window sequence: InvalidWindow, before any transaction (log 11). -/
def execWindow (s : State) : Result :=
  .next
    (if windowOk s.wxs s.wys s.wxe s.wye then
      State.emitAll (windowList s.params s.wxs s.wys s.wxe s.wye) (s.mark .window)
    else s.raise .invalidWindow)

/-- RESET (40_controller_protocol.md R120): the reset pulse. -/
def execReset (s : State) : Result := .next (State.emitAll resetList (s.mark .reset))

/-- ENCODE (41_frame_transfer.md R152, R153): the dimension check, then all of NB from the image. No transaction. -/
def execEncode (s : State) : Result :=
  if s.image.fits then s.encodeFrame else .next (s.raise .dimensionMismatch)

/-- TRANSFER (41_frame_transfer.md R161) of all of NB. -/
def execTransfer (s : State) : Result :=
  s.nbRead 0 Config.nbSize fun bs =>
    .next (State.emitAll (transferList s.params bs) (s.mark .transfer))

/-- FILL (41_frame_transfer.md R176): all of NB is 0xFF. No transaction, no exception. -/
def execFill (s : State) : Result := s.fillBuffer

/-- TABLE: the initialization table and the tail (10_state.md R26; 40_controller_protocol.md R122, R123; log 10). -/
def execTable (s : State) : Result :=
  .next (State.emitAll (tableList s.params ++ tailList s.params) (s.mark .table))

end Sys2Proof.Machine
end

