-- ==== Sys2Proof/Machine/Dispatch.lean ====
section
/-! DEFINITION. One arm per instruction, each a direct call of its meaning. -/

namespace Sys2Proof.Machine

def exec (i : Instr) (s : State) : Host.Outcome State Fault Refusal :=
  match i with
  -- host requests
  | .init => Sys2Proof.Machine.execInit s
  | .render => Sys2Proof.Machine.execRender s
  | .clear => Sys2Proof.Machine.execClear s
  | .setwindow xs ys xe ye => Sys2Proof.Machine.execSetwindow xs ys xe ye s
  -- internal sub-operations
  | .window => Sys2Proof.Machine.execWindow s
  | .reset => Sys2Proof.Machine.execReset s
  | .encode => Sys2Proof.Machine.execEncode s
  | .transfer => Sys2Proof.Machine.execTransfer s
  | .fill => Sys2Proof.Machine.execFill s
  | .table => Sys2Proof.Machine.execTable s
  -- panel commands
  | .caset start last => Sys2Proof.Machine.execCaset start last s
  | .raset start last => Sys2Proof.Machine.execRaset start last s
  | .ramwr => Sys2Proof.Machine.execRamwr s
  | .slpout => Sys2Proof.Machine.execSlpout s
  | .dispon => Sys2Proof.Machine.execDispon s
  | .initTable cmd params delay => Sys2Proof.Machine.execInitTable cmd params delay s

end Sys2Proof.Machine
end

