-- ==== Sys2Proof/Machine/Step.lean ====
section
/-! DEFINITION. One step of the machine: an internal operation placed for direct execution, else the next
transaction of the running request (40_controller_protocol.md R114), else the acceptance of the request the host
presents (R113), else waiting for one (70_reset_and_hazards.md R210). -/

namespace Sys2Proof.Machine

/-- The host's call reaches the port: it is no longer among the calls still to come, and the image source presents
the image that came with it (log 4, log 5). -/
def State.take (s : State) (r : HostRequest) (rest : List HostRequest) : State :=
  { s with host := rest, image := r.image.getD s.image }

/-- Acceptance of a presented word (40_controller_protocol.md R113). -/
def State.accept (s : State) (w : ReqWord) : Result :=
  match decodeRequest w with
  | .ok i => exec i s
  | .error _ => .next (acceptIllegal w s)

/-- The port while PHASE is 0 (10_state.md R36); with no call presented it waits (log 25), and a call with no word is
refused (log 20). -/
def State.stepIdle (s : State) : Result :=
  match s.host with
  | [] => .next s
  | r :: rest =>
    match r.call.toWord? with
    | none => .refused .unencodableCoordinate
    | some w => (s.take r rest).accept w

/-- The execution step while PHASE is not 0 (40_controller_protocol.md R114). -/
def State.stepRunning (s : State) : Result :=
  match s.tl[s.seq]? with
  | some t => .next (s.issueNext t)
  | none => .fault .seqOutOfRange

/-- An internal operation in the slot (log 7). -/
def State.stepDirect (s : State) (e : Encoded) : Result :=
  match decode s.params e with
  | .ok i => exec i { s with ir := none }
  | .error _ => .refused .undecodableInternal

/-- One step. -/
def step (s : State) : Host.Outcome State Fault Refusal :=
  match s.ir with
  | some e => s.stepDirect e
  | none => if s.phase = .idle then s.stepIdle else s.stepRunning

/-- Place an instruction where the next step takes its next instruction from. A request word becomes the call the
host presents to the ready port; a sub-operation or panel command, which no host can issue, goes into the slot
(log 4, log 7). -/
def State.withFetchWord (s : State) (nbits w : Nat) : State :=
  match tableWord nbits w with
  | .request r =>
    { s with ir := none, phase := .idle, sub := .none, tl := [], seq := 0, host := ⟨.word r, none⟩ :: s.host }
  | .subop c => { s with ir := some (.subop c) }
  | .frame ts => { s with ir := some (.frame ts) }

end Sys2Proof.Machine
end

