-- ==== Sys2Proof/Safety.lean ====
section
/-! DEFINITION. The terms the statements use: how the transport answers a list of transactions, which transactions
the machine may have in its list, the invariant of every step, and the sums of 40_controller_protocol.md R124. -/

namespace Sys2Proof.Machine

/-- The transport answers OK to every transaction of the list, issued in order from this state. -/
def State.AnswersOk : List Txn → State → Prop
  | [], _ => True
  | t :: ts, s => s.outcome t = .ok ∧ State.AnswersOk ts (s.issued t .ok)

/-- The transport answers OK to the transactions before `t` and FAIL to `t`. -/
def State.FailsAfter (before : List Txn) (t : Txn) (s : State) : Prop :=
  State.AnswersOk before s ∧ (s.issuedAll before).outcome t = .fail

/-- The entries LOG gets for transactions that came back OK. -/
def okEntries (ts : List Txn) : List LogEntry := ts.map fun t => (t, .ok)

/-- A transaction the sequencer may issue while a request runs. INIT: the reset line, the table's commands,
parameters and delays, SLPOUT and DISPON, and the fixed delays (30_encoding.md R93, R94; 40_controller_protocol.md
R120, R122, R123). The others: the three window commands and address parameters `0x00, s, 0x00, e` (R130), with no
SLEEP (70_reset_and_hazards.md R230). RENDER and CLEAR beside these: `PIN(DC, DATA)` and DATA of 1 to CHUNK_MAX bytes
(41_frame_transfer.md R161, R162); their address parameters are the full panel's (R170). No `DATA([])` (30_encoding.md
R92), no `PIN(DC, COMMAND)` (R93), no other command byte (R100). -/
def issuable (p : Params) (ph : Phase) : Txn → Bool
  | .cmd b =>
    if ph = .init then b == p.cmdSlpout || b == p.cmdDispon || p.initTable.any fun e => e.cmd == b
    else b == p.cmdCaset || b == p.cmdRaset || b == p.cmdRamwr
  | .data bs =>
    !bs.isEmpty && (match ph with
      | .idle => false
      | .init => p.initTable.any fun e => e.params == bs
      | .setwindow => (rangeOf bs).isSome
      | .render => bs == [0x00#8, 0x00#8, 0x00#8, 0xEF#8] || decide (bs.length ≤ p.chunkMax)
      | .clear => bs == [0x00#8, 0x00#8, 0x00#8, 0xEF#8] || decide (bs.length ≤ p.chunkMax))
  | .pinRst _ => decide (ph = .init)
  | .pinDc .data => decide (ph = .render) || decide (ph = .clear)
  | .pinDc .command => false
  | .sleep ms =>
    decide (ph = .init) && (ms == 10 || ms == 120 || ms == 20 || p.initTable.any fun e => e.delay == some ms)

/-- The whole list of the request that PHASE says is running: List(d) of 40_controller_protocol.md R113, as R121, R131
and 41_frame_transfer.md R170, R175 give it. -/
def State.requestList (s : State) : List Txn :=
  match s.phase with
  | .idle => []
  | .init => resetList ++ tableList s.params ++ tailList s.params
  | .setwindow => windowList s.params s.wxs s.wys s.wxe s.wye
  | .render => windowList s.params s.wxs s.wys s.wxe s.wye ++ transferList s.params (s.nb.readRun 0 Config.nbSize)
  | .clear => windowList s.params s.wxs s.wys s.wxe s.wye ++ transferList s.params (s.nb.readRun 0 Config.nbSize)

/-- The window latches while a request runs (10_state.md R25): a window that passes the check of
40_controller_protocol.md R131 in a SETWINDOW, the full panel in a RENDER or CLEAR. -/
def latchesFor (ph : Phase) (xs ys xe ye : Coord) : Bool :=
  match ph with
  | .idle => true
  | .init => true
  | .setwindow => windowOk xs ys xe ye
  | .render => decide (xs = 0#12 ∧ ys = 0#12 ∧ xe = fullXe ∧ ye = fullYe)
  | .clear => decide (xs = 0#12 ∧ ys = 0#12 ∧ xe = fullXe ∧ ye = fullYe)

/-- The transactions of an operation that is made of transactions: a panel command, or a sub-operation that
contributes a list (40_controller_protocol.md R120, R122, R123, R130, R132-R137; 41_frame_transfer.md R161). -/
def State.txnsOf (s : State) : Instr → Option (List Txn)
  | .init => none
  | .render => none
  | .clear => none
  | .setwindow _ _ _ _ => none
  | .window => if windowOk s.wxs s.wys s.wxe s.wye then some (windowList s.params s.wxs s.wys s.wxe s.wye) else none
  | .reset => some resetList
  | .encode => none
  | .transfer => some (transferList s.params (s.nb.readRun 0 Config.nbSize))
  | .fill => none
  | .table => some (tableList s.params ++ tailList s.params)
  | .caset a b => some (casetTxns s.params a b)
  | .raset a b => some (rasetTxns s.params a b)
  | .ramwr => some (ramwrTxns s.params)
  | .slpout => some (slpoutTxns s.params)
  | .dispon => some (disponTxns s.params)
  | .initTable c ps d => some (vendorTxns c ps d)

/-- The milliseconds of the SLEEPs of a list. -/
def delayOf (ts : List Txn) : Nat :=
  (ts.map fun t => match t with
    | .sleep ms => ms
    | .cmd _ => 0
    | .data _ => 0
    | .pinRst _ => 0
    | .pinDc _ => 0).sum

/-- How many transactions a table entry contributes: `1 + [len(params) > 0] + [delay ≠ NONE]`
(40_controller_protocol.md R124). -/
def TableEntry.count (e : TableEntry) : Nat :=
  1 + (if 0 < e.params.length then 1 else 0) + (if e.delay.isSome then 1 else 0)

/-- The request that PHASE says is running has passed its check of INIT_DONE (60_exceptions.md R183), and INIT has
cleared it (40_controller_protocol.md R121). -/
def initDoneFor : Phase → Bool → Bool
  | .idle, _ => true
  | .init, d => !d
  | .render, d => d
  | .clear, d => d
  | .setwindow, d => d

/-- What every step keeps. -/
structure State.Inv (s : State) : Prop where
  /-- The slot for direct execution is empty (log 7). -/
  slotEmpty : s.ir = none
  /-- PHASE is 0 exactly when there is no transaction left to issue (10_state.md R26, R27). -/
  idleEmpty : s.phase = .idle → s.tl = [] ∧ s.seq = 0
  seqInRange : s.phase ≠ .idle → s.seq < s.tl.length
  /-- SUB names the sub-operation of the transaction about to be issued (R26). -/
  subNames : s.sub = subAt s.phase s.seq
  /-- Every transaction still to be issued is one the running request may issue (30_encoding.md R92, R93, R94, R100). -/
  listIssuable : ∀ t ∈ s.tl, issuable s.params s.phase t = true
  /-- TL is the whole list of the running request, computed from what it left in the latches and in NB
  (40_controller_protocol.md R113, 10_state.md R25, R32). -/
  listOfRequest : s.phase ≠ .idle → s.tl = s.requestList
  latchesOfRequest : latchesFor s.phase s.wxs s.wys s.wxe s.wye = true
  /-- A response is valid only between requests (R33), and is the word of R84. -/
  respIdle : s.resp.isSome = true → s.phase = .idle
  respIsWord : ∀ r, s.resp = some r → r = respWord s.initDone s.status
  /-- INIT_DONE is 0 while an INIT runs and 1 while another request runs. -/
  initDonePhase : initDoneFor s.phase s.initDone = true
  /-- Between requests and in every request but INIT, a configured observer implies INIT_DONE
  (40_controller_protocol.md R145). -/
  configuredInit : s.phase = .init ∨ (s.panel.configured = true → s.initDone = true)
  /-- An armed observer awaits no parameters: only RAMWR arms it, and an address command disarms it (R141). -/
  armedAwaitsPixels : s.panel.armed.isSome = true → s.panel.expect = .nothing
  /-- The native buffer and the observer's pixels are canonical. -/
  bufferCanonical : s.nb.wf = true
  gramCanonical : Cells.rising 0 s.panel.gram = true ∧
    Cells.below (Config.width * Config.height) s.panel.gram = true

end Sys2Proof.Machine
end

