-- ==== Sys2Proof/WellFormed.lean ====
section
/-! DEFINITION. Which instructions have the words of their row: the checks on operands. -/

namespace Sys2Proof

/-- The two bytes of an address-set command come from a window inside the panel: `start ≤ last ≤ 239`
(40_controller_protocol.md R130, 20_memory.md R56). -/
def addressOk (start last : Byte) (bound : Nat) : Bool :=
  decide (start.toNat ≤ last.toNat) && decide (last.toNat < bound)

/-- A vendor command is no sleep-out and no display-on (10_state.md R21), and its frame is not the frame of a
command that has a row of its own (log 27). -/
def vendorOk (p : Params) (c : Byte) (ps : List Byte) (d : Option Nat) : Bool :=
  p.entryOk ⟨c, ps, d⟩ && (namedCommand p ⟨c, ps, d⟩).isNone

/-- Well-formed instructions. SETWINDOW's operands are checked by the machine, not by the encoding: every 12-bit
value is encodable (30_encoding.md R83). -/
def WellFormed (p : Params) : Instr → Bool
  | .init => true
  | .render => true
  | .clear => true
  | .setwindow _ _ _ _ => true
  | .window => true
  | .reset => true
  | .encode => true
  | .transfer => true
  | .fill => true
  | .table => true
  | .caset s e => addressOk s e Config.width
  | .raset s e => addressOk s e Config.height
  | .ramwr => true
  | .slpout => true
  | .dispon => true
  | .initTable c ps d => vendorOk p c ps d

end Sys2Proof
end

