-- ==== Sys2Proof/Certificates/Slice0/Obligations.lean ====
section
/-! DEFINITION. The statements for the provers. Each docstring names the rules of spec/ a statement formalises;
where a clause is the model's own choice it names the log entry under notes/assumptions/. -/

open Sys2Proof Sys2Proof.Machine

/-! ## Encoding -/

/-- 30_encoding.md R82, R83, R104: which words decode to which request, and that every other word is illegal. -/
def Obligations.RequestDecodeByFiveMatches : Prop :=
  ∀ w : ReqWord,
    (decodeRequest w = .ok .init ↔ w = 0x0000000000000001#64) ∧
    (decodeRequest w = .ok .render ↔ w = 0x0000000000000002#64) ∧
    (decodeRequest w = .ok .clear ↔ w = 0x0000000000000003#64) ∧
    (∀ xs ys xe ye, decodeRequest w = .ok (.setwindow xs ys xe ye) ↔
      w &&& 0xF000000000000FFF#64 = 0x0000000000000004#64 ∧
      xs = w.extractLsb' 12 12 ∧ ys = w.extractLsb' 24 12 ∧ xe = w.extractLsb' 36 12 ∧ ye = w.extractLsb' 48 12) ∧
    ((∃ r, decodeRequest w = .error r) ↔
      ¬ (w = 0x0000000000000001#64 ∨ w = 0x0000000000000002#64 ∨ w = 0x0000000000000003#64 ∨
        w &&& 0xF000000000000FFF#64 = 0x0000000000000004#64))

/-- Words written out bit by bit from 30_encoding.md R80, R81 and 95_test_vectors.md V-WIN and V-DEC, from the SUB
codes of 10_state.md R26, and from the parameter bytes of R97. The last two clauses rest on the model's choices too:
the command bytes 0x2A and 0x11 are the presumed defaults (log 2), CASET's operands are the two bytes as sent (log 19),
and SLPOUT's form includes its SLEEP (log 9). -/
def Obligations.SpecWordsDecode : Prop :=
  decodeRequest 0x0000000000000001#64 = .ok .init ∧
  decodeRequest 0x002801E01400A004#64 = .ok (.setwindow 10#12 20#12 30#12 40#12) ∧
  decodeRequest 0x00F00F00EF0EF004#64 = .ok (.setwindow 239#12 239#12 240#12 240#12) ∧
  decodeRequest 0x0000000000000008#64 = .error .internalOp ∧
  decodeRequest 0x0000000000001001#64 = .error .reservedField ∧
  decodeSubop 0xA#4 = .ok .transfer ∧
  decodeFrame (Params.withTable []) [.cmd 0x2A#8, .data [0x00#8, 0x0A#8, 0x00#8, 0x1D#8]] =
    .ok (.caset 0x0A#8 0x1D#8) ∧
  decodeFrame (Params.withTable []) [.cmd 0x11#8, .sleep 120] = .ok .slpout

/-- Decode and encode agree for every instruction, with every operand at every value its encoding admits
(30_encoding.md R80-R83, R96-R98; 10_state.md R26). -/
def Obligations.DecodeOfEncodeIsTheInstruction : Prop :=
  ∀ (p : Params) (i : Instr), p.distinct = true → WellFormed p i = true → decode p (encode p i) = .ok i

/-- A request word has one meaning and an instruction one word: encoding what a word decodes to gives the word back
(30_encoding.md R82, R104). -/
def Obligations.EncodeOfDecodedRequestIsTheWord : Prop :=
  ∀ (p : Params) (w : ReqWord) (i : Instr), decodeRequest w = .ok i → encode p i = .request w

/-- The stream decoder takes exactly one panel command off the stream, whatever CMD, PIN or end follows it. A frame
starts at a CMD, runs over every DATA after it until the next CMD, PIN or SLEEP, and its parameters are the bytes of
those DATAs in order (30_encoding.md R96, R98; log 33); a SLEEP right after it is the command's delay (log 9); a stream
that does not start with a CMD starts no frame. -/
def Obligations.StreamDecoderTakesOneCommand : Prop :=
  (∀ (p : Params) (i : Instr) (ts rest : List Txn), p.distinct = true → WellFormed p i = true →
    encode p i = .frame ts →
    (rest = [] ∨ (∃ c r, rest = .cmd c :: r) ∨ (∃ l r, rest = .pinRst l :: r) ∨ ∃ l r, rest = .pinDc l :: r) →
    decodeStream p (ts ++ rest) = .ok (i, rest)) ∧
  (∀ (c : Byte) (bss : List (List Byte)) (rest : List Txn),
    ((rest = [] ∨ (∃ b r, rest = .cmd b :: r) ∨ (∃ l r, rest = .pinRst l :: r) ∨ ∃ l r, rest = .pinDc l :: r) →
      takeFrame (.cmd c :: (bss.map .data ++ rest)) = some (⟨c, bss.flatten, none⟩, rest)) ∧
    ∀ ms r, rest = .sleep ms :: r →
      takeFrame (.cmd c :: (bss.map .data ++ rest)) = some (⟨c, bss.flatten, some ms⟩, r)) ∧
  ∀ ts : List Txn, (∀ c r, ts ≠ .cmd c :: r) → takeFrame ts = none

/-- A driver call with a coordinate outside 0..4095 is refused at the host boundary, and any other SETWINDOW call
becomes the word whose fields are its coordinates (30_encoding.md R83). -/
def Obligations.UnencodableCoordinateRefused : Prop :=
  ∀ (s : State) (rest : List HostRequest) (img : Option Image) (xs ys xe ye : Int),
    s.ir = none → s.phase = .idle → s.host = ⟨.setWindow xs ys xe ye, img⟩ :: rest →
    ((xs < 0 ∨ 4095 < xs ∨ ys < 0 ∨ 4095 < ys ∨ xe < 0 ∨ 4095 < xe ∨ ye < 0 ∨ 4095 < ye) →
      step s = .refused .unencodableCoordinate) ∧
    ((0 ≤ xs ∧ xs ≤ 4095 ∧ 0 ≤ ys ∧ ys ≤ 4095 ∧ 0 ≤ xe ∧ xe ≤ 4095 ∧ 0 ≤ ye ∧ ye ≤ 4095) →
      ∃ a b c d : Coord, (a.toNat : Int) = xs ∧ (b.toNat : Int) = ys ∧ (c.toNat : Int) = xe ∧ (d.toNat : Int) = ye ∧
        step s = exec (.setwindow a b c d) (s.take ⟨.setWindow xs ys xe ye, img⟩ rest))

/-! ## Steps -/

/-- A step runs the decoded instruction: the request word the host presents to the ready port, in the state in which
the call and its image have reached the port (40_controller_protocol.md R113; logs 4, 5), and an operation in the
slot, in the state in which the slot is empty again (log 7). -/
def Obligations.StepRunsDecodedInstruction : Prop :=
  (∀ (s : State) (r : HostRequest) (rest : List HostRequest) (w : ReqWord) (i : Instr),
    s.ir = none → s.phase = .idle → s.host = r :: rest → r.call.toWord? = some w → decodeRequest w = .ok i →
    step s = exec i { s with host := rest, image := r.image.getD s.image }) ∧
  (∀ (s : State) (e : Encoded) (i : Instr), s.ir = some e → decode s.params e = .ok i →
    step s = exec i { s with ir := none })

/-- The table's words run first after reset (logs 4, 7). -/
def Obligations.TableWordRunsAfterReset : Prop :=
  ∀ (nbits w : Nat) (i : Instr), decodeTableWord nbits w = some i →
    step (State.reset.withFetchWord nbits w) = exec i State.reset

/-- 60_exceptions.md R181: a presented word that does not decode ends at once with IllegalRequest; only REQ, STATUS
and RESP are written (and the host's call is taken: log 4). -/
def Obligations.IllegalWordEndsWithIllegalRequest : Prop :=
  ∀ (s : State) (r : HostRequest) (rest : List HostRequest) (w : ReqWord) (e : Reject),
    s.Inv → s.phase = .idle → s.host = r :: rest → r.call.toWord? = some w → decodeRequest w = .error e →
    step s = .next { s with
      host := rest
      image := r.image.getD s.image
      req := w
      status := .illegalRequest
      resp := some (respWord s.initDone .illegalRequest) }

/-- 40_controller_protocol.md R110, R112, R114: a step of a running request issues the transaction at SEQ, logs it,
and on OK moves SEQ by one. Nothing else is written but what the transaction itself writes. -/
def Obligations.StepIssuesTransactionAtSeq : Prop :=
  ∀ (s : State) (t : Txn), s.ir = none → s.phase ≠ .idle → s.tl[s.seq]? = some t → s.outcome t = .ok →
    s.seq + 1 ≠ s.tl.length →
    step s = .next { s with
      seq := s.seq + 1
      sub := subAt s.phase (s.seq + 1)
      transport := s.transport.tail
      log := s.log ++ [(t, .ok)]
      dcShadow := nextDcShadow s.dcShadow t .ok
      rstShadow := nextRstShadow s.rstShadow t .ok
      panel := s.panel.observe s.params t .ok }

/-- 40_controller_protocol.md R114, R115, 60_exceptions.md R186: the last transaction with OK completes the request
with status OK, sets INIT_DONE if it is an INIT, writes RESP and returns to idle; R145: an INIT that completes makes
the observer configured. -/
def Obligations.LastTransactionCompletesRequest : Prop :=
  ∀ (s : State) (t : Txn), s.ir = none → s.phase ≠ .idle → s.tl[s.seq]? = some t → s.outcome t = .ok →
    s.seq + 1 = s.tl.length →
    step s = .next { s with
      phase := .idle
      sub := .none
      tl := []
      seq := 0
      status := .ok
      initDone := if s.phase = .init then true else s.initDone
      resp := some (if s.phase = .init ∨ s.initDone = true then 0x08#8 else 0x00#8)
      transport := s.transport.tail
      log := s.log ++ [(t, .ok)]
      dcShadow := nextDcShadow s.dcShadow t .ok
      rstShadow := nextRstShadow s.rstShadow t .ok
      panel := { s.panel.observe s.params t .ok with
        configured := if s.phase = .init then true else (s.panel.observe s.params t .ok).configured } }

/-- 40_controller_protocol.md R110, R144, 60_exceptions.md R184, R187: a FAIL logs the transaction with FAIL, ends
the request with TransportFailure, clears INIT_DONE if an INIT runs and leaves it otherwise; the observer forgets. The
shadows are those of R112 (DC_SHADOW after the FAIL of a SLEEP or PIN(RST): log 34). -/
def Obligations.FailedTransactionAbortsRequest : Prop :=
  ∀ (s : State) (t : Txn), s.ir = none → s.phase ≠ .idle → s.tl[s.seq]? = some t → s.outcome t = .fail →
    step s = .next { s with
      phase := .idle
      sub := .none
      tl := []
      seq := 0
      status := .transportFailure
      initDone := if s.phase = .init then false else s.initDone
      resp := some (if s.phase = .init ∨ s.initDone = false then 0x01#8 else 0x09#8)
      transport := s.transport.tail
      log := s.log ++ [(t, .fail)]
      dcShadow := nextDcShadow s.dcShadow t .fail
      rstShadow := nextRstShadow s.rstShadow t .fail
      panel := { configured := false, col := none, row := none, armed := none, expect := .nothing, gram := [] } }

/-- 40_controller_protocol.md R112, 10_state.md R30, R31: the shadows after a transaction. That the FAIL of a SLEEP or
PIN(RST) leaves DC_SHADOW as it was is the model's reading of R112 beside R30 (log 34). -/
def Obligations.ShadowsFollowTransactions : Prop :=
  ∀ (d : DcShadow) (r : RstShadow) (b : Byte) (bs : List Byte) (l : Level) (ms : Nat) (o : TxnOutcome),
    nextDcShadow d (.cmd b) .ok = .command ∧ nextDcShadow d (.data bs) .ok = .data ∧
    nextDcShadow d (.pinDc .data) .ok = .data ∧
    nextRstShadow r (.pinRst .high) .ok = .high ∧ nextRstShadow r (.pinRst .low) .ok = .low ∧
    nextDcShadow d (.sleep ms) o = d ∧ nextRstShadow r (.sleep ms) o = r ∧
    nextDcShadow d (.cmd b) .fail = .unknown ∧ nextDcShadow d (.data bs) .fail = .unknown ∧
    nextDcShadow d (.pinDc .data) .fail = .unknown ∧ nextDcShadow d (.pinDc .command) .fail = .unknown ∧
    nextRstShadow r (.pinRst l) .fail = .unknown ∧
    nextDcShadow d (.pinRst l) o = d ∧ nextRstShadow r (.cmd b) o = r ∧ nextRstShadow r (.data bs) o = r ∧
    nextRstShadow r (.pinDc .data) o = r

/-- The steps of a running request are its operations: where TL holds the transactions of an operation from SEQ on
and all are answered OK, as many steps give what the operation's meaning gives, with SEQ moved past them
(40_controller_protocol.md R114; log 8). -/
def Obligations.StepsRunOperation : Prop :=
  ∀ (s : State) (i : Instr) (ts : List Txn), s.ir = none → s.phase ≠ .idle → s.txnsOf i = some ts → ts ≠ [] →
    ts <+: s.tl.drop s.seq → State.AnswersOk ts s →
    ∃ t, exec i s = .next t ∧ Sys2Proof.core.run ts.length s = .next (t.advance ts.length)

/-- The same where one of the operation's transactions fails: the steps up to the failure give exactly what the
operation's meaning gives (40_controller_protocol.md R110, R114; log 8). -/
def Obligations.StepsFailLikeOperation : Prop :=
  ∀ (s : State) (i : Instr) (before after : List Txn) (t : Txn), s.ir = none → s.phase ≠ .idle →
    s.txnsOf i = some (before ++ t :: after) → before ++ [t] <+: s.tl.drop s.seq → State.FailsAfter before t s →
    Sys2Proof.core.run (before.length + 1) s = exec i s

/-- A request whose transactions are all answered OK ends with status OK after one step per transaction, and LOG has
gained exactly the rest of its list, in order (40_controller_protocol.md R114, R115, 70_reset_and_hazards.md R231). -/
def Obligations.RequestCompletesInItsListLength : Prop :=
  ∀ s : State, s.ir = none → s.phase ≠ .idle → s.seq < s.tl.length → State.AnswersOk (s.tl.drop s.seq) s →
    ∃ t : State, Sys2Proof.core.run (s.tl.length - s.seq) s = .next t ∧
      t.log = s.log ++ okEntries (s.tl.drop s.seq) ∧ t.phase = .idle ∧ t.tl = [] ∧ t.seq = 0 ∧ t.status = .ok ∧
      t.initDone = (if s.phase = .init then true else s.initDone) ∧
      t.resp = some (respWord t.initDone .ok) ∧ t.nb = s.nb ∧ t.host = s.host ∧ t.image = s.image ∧
      t.req = s.req ∧ t.wxs = s.wxs ∧ t.wys = s.wys ∧ t.wxe = s.wxe ∧ t.wye = s.wye

/-- A request one of whose transactions fails ends there: LOG has gained the transactions before it and the failed
one, nothing after it is issued (40_controller_protocol.md R110, 60_exceptions.md R184, R187). -/
def Obligations.FailedRequestLeavesPrefixInLog : Prop :=
  ∀ (s : State) (before after : List Txn) (t : Txn), s.ir = none → s.phase ≠ .idle →
    s.tl.drop s.seq = before ++ t :: after → State.FailsAfter before t s →
    ∃ u : State, Sys2Proof.core.run (before.length + 1) s = .next u ∧
      u.log = s.log ++ okEntries before ++ [(t, .fail)] ∧ u.phase = .idle ∧ u.tl = [] ∧
      u.status = .transportFailure ∧ u.initDone = (if s.phase = .init then false else s.initDone) ∧
      u.resp = some (respWord u.initDone .transportFailure) ∧ u.panel = Panel.unknown ∧ u.nb = s.nb

/-! ## Whole-machine rules -/

/-- Every step keeps the invariant: the port, SUB, RESP and INIT_DONE agree with PHASE, SEQ stays in TL, TL is the list
of the running request and holds only transactions it may issue, the latches hold that request's window, an armed
observer awaits no parameters, and the buffer and the observer's pixels stay canonical (10_state.md R25-R28, R32, R33,
R36, 30_encoding.md R92-R94, R100, 40_controller_protocol.md R113, R141, R145). -/
def Obligations.StepKeepsInvariant : Prop :=
  ∀ s s' : State, s.Inv → step s = .next s' → s'.Inv

/-- 10_state.md R27, 30_encoding.md R92, R93, R94, R100, 70_reset_and_hazards.md R230: whatever a step issues is the
transaction at SEQ of the running request's own list, and so one that this request may issue: no reset pulse and no
SLEEP outside INIT, no command byte but the request's own, no empty DATA, and outside INIT only the four parameter
bytes of an address command and, in RENDER and CLEAR, DATA of at most CHUNK_MAX bytes. -/
def Obligations.OnlyTransactionsOfTheRequestAreIssued : Prop :=
  ∀ (s s' : State) (t : Txn) (o : TxnOutcome), s.Inv → step s = .next s' → s'.log = s.log ++ [(t, o)] →
    s.phase ≠ .idle ∧ s.requestList[s.seq]? = some t ∧ issuable s.params s.phase t = true

/-- The invariant holds at reset. -/
def Obligations.ResetMeetsInvariant : Prop := State.reset.Inv

/-- 10_state.md R39: the values after sequencer reset. NB is unspecified there and no clause names it. -/
def Obligations.ResetValues : Prop :=
  State.reset.phase.code = 0#4 ∧ State.reset.sub.code = 0x0#4 ∧ State.reset.tl = [] ∧ State.reset.seq = 0 ∧
  State.reset.req = 0#64 ∧ State.reset.wxs = 0#12 ∧ State.reset.wys = 0#12 ∧ State.reset.wxe = 0#12 ∧
  State.reset.wye = 0#12 ∧ State.reset.initDone = false ∧ State.reset.status.code = 0#3 ∧
  State.reset.resp = none ∧ State.reset.dcShadow = .unknown ∧ State.reset.rstShadow = .unknown ∧
  State.reset.log = [] ∧ State.reset.panel.configured = false ∧ State.reset.panel.col = none ∧
  State.reset.panel.row = none ∧ State.reset.panel.armed = none ∧ (∀ x y, State.reset.panel.pixel x y = none) ∧
  step State.reset = .next State.reset

/-- 10_state.md R34: the sequencer only appends to LOG, at most one entry a step. -/
def Obligations.LogOnlyGrowsByOneEntry : Prop :=
  ∀ s s' : State, s.ir = none → step s = .next s' → s'.log = s.log ∨ ∃ e, s'.log = s.log ++ [e]

/-- 10_state.md R21, R22: no step writes the parameters. -/
def Obligations.ParametersNeverWritten : Prop :=
  ∀ s s' : State, step s = .next s' → s'.params = s.params

/-- 10_state.md R28: outside the steps of INIT, no step writes INIT_DONE. -/
def Obligations.OnlyInitWritesInitDone : Prop :=
  ∀ s s' : State, s.ir = none → step s = .next s' → s.phase ≠ .init → s'.phase ≠ .init → s'.initDone = s.initDone

/-- 40_controller_protocol.md R140, R141, R145: the observer changes only by the entry a step appends, and becomes
configured only at the entry that completes an INIT with OK. -/
def Obligations.PanelFollowsLog : Prop :=
  ∀ s s' : State, s.ir = none → step s = .next s' →
    (s'.log = s.log ∧ s'.panel = s.panel) ∨
    ∃ t o, s'.log = s.log ++ [(t, o)] ∧
      s'.panel = (if s.phase = .init ∧ s.seq + 1 = s.tl.length ∧ o = .ok then
        { s.panel.observe s.params t o with configured := true } else s.panel.observe s.params t o)

/-- 70_reset_and_hazards.md R226: an observer that is not configured and knows no pixel stays so through every step
but the one that issues the last transaction of an INIT, and that one leaves every pixel UNKNOWN. -/
def Obligations.UnconfiguredPanelKnowsNoPixel : Prop :=
  ∀ s s' : State, s.ir = none → step s = .next s' → s.panel.configured = false → s.panel.gram = [] →
    (∀ x y, s'.panel.pixel x y = none) ∧
    (¬ (s.phase = .init ∧ s.seq + 1 = s.tl.length) → s'.panel.configured = false)

/-- 40_controller_protocol.md R145: outside INIT the observer is configured exactly when INIT_DONE is 1, as long as no
transaction of a RENDER, CLEAR or SETWINDOW fails. -/
def Obligations.ConfiguredEqualsInitDoneUntilFailure : Prop :=
  ∀ s s' : State, s.Inv → (s.phase = .init ∨ s.panel.configured = s.initDone) → step s = .next s' →
    (s.phase = .init ∨ s.phase = .idle ∨ ∀ t, s'.log ≠ s.log ++ [(t, .fail)]) →
    (s'.phase = .init ∨ s'.panel.configured = s'.initDone)

/-- 10_state.md R25, R32: RENDER and CLEAR read nothing that an earlier request left in NB or in the window latches:
what they list, and how they end, is the same whatever was there. -/
def Obligations.RequestsReadNoOldBufferOrLatches : Prop :=
  ∀ (s t : State) (m : Memory) (a b c d : Coord) (i : Instr), (i = .render ∨ i = .clear) →
    s.nb.wf = true → m.wf = true → exec i s = .next t →
    ∃ t', exec i { s with nb := m, wxs := a, wys := b, wxe := c, wye := d } = .next t' ∧
      t'.tl = t.tl ∧ t'.phase = t.phase ∧ t'.status = t.status ∧ t'.resp = t.resp ∧ t'.log = t.log

/-- 10_state.md R21, 41_frame_transfer.md R164: the configuration at reset is a legal one: CHUNK_MAX between 1 and
TRANSPORT_MAX, no sleep-out and no display-on in the table. The values themselves are the model's (log 2). -/
def Obligations.ResetConfigurationIsLegal : Prop :=
  1 ≤ State.reset.params.chunkMax ∧ State.reset.params.chunkMax ≤ State.reset.params.transportMax ∧
  (∀ e ∈ State.reset.params.initTable,
    e.cmd ≠ State.reset.params.cmdSlpout ∧ e.cmd ≠ State.reset.params.cmdDispon) ∧
  State.reset.params.distinct = true

/-! ## Host requests -/

/-- 40_controller_protocol.md R120-R123: the acceptance of INIT, with its whole list. -/
def Obligations.InitAccepted : Prop :=
  ∀ s : State, s.phase = .idle →
    exec .init s = .next { s with
      req := 0x0000000000000001#64
      resp := none
      initDone := false
      phase := .init
      sub := .reset
      seq := 0
      tl :=
        [.pinRst .high, .sleep 10, .pinRst .low, .sleep 10, .pinRst .high, .sleep 10] ++
        s.params.initTable.flatMap (fun e =>
          [.cmd e.cmd] ++ (if 0 < e.params.length then [.data e.params] else []) ++
            (match e.delay with
              | some ms => [.sleep ms]
              | none => [])) ++
        [.cmd s.params.cmdSlpout, .sleep 120, .cmd s.params.cmdDispon, .sleep 20] }

/-- 40_controller_protocol.md R124: the length of INIT's list and the sum of its delays. -/
def Obligations.InitListLengthAndDelay : Prop :=
  ∀ p : Params,
    (resetList ++ tableList p ++ tailList p).length = 6 + (p.initTable.map TableEntry.count).sum + 4 ∧
    delayOf (resetList ++ tableList p ++ tailList p) = 30 + (p.initTable.map fun e => e.delay.getD 0).sum + 140

/-- 40_controller_protocol.md R130, R131: the acceptance of SETWINDOW. -/
def Obligations.SetwindowAccepted : Prop :=
  ∀ (s : State) (xs ys xe ye : Coord), s.phase = .idle → s.initDone = true →
    xs.toNat < xe.toNat → xe.toNat ≤ 240 → ys.toNat < ye.toNat → ye.toNat ≤ 240 →
    exec (.setwindow xs ys xe ye) s = .next { s with
      req := setwindowWord xs ys xe ye
      resp := none
      wxs := xs
      wys := ys
      wxe := xe
      wye := ye
      phase := .setwindow
      sub := .window
      seq := 0
      tl :=
        [.cmd s.params.cmdCaset, .data [0x00#8, BitVec.ofNat 8 xs.toNat, 0x00#8, BitVec.ofNat 8 (xe.toNat - 1)],
          .cmd s.params.cmdRaset, .data [0x00#8, BitVec.ofNat 8 ys.toNat, 0x00#8, BitVec.ofNat 8 (ye.toNat - 1)],
          .cmd s.params.cmdRamwr] }

/-- 60_exceptions.md R182, R188: a window that fails the check ends SETWINDOW with InvalidWindow, whatever INIT_DONE
is, with no transaction and no latch written. -/
def Obligations.InvalidWindowEndsSetwindow : Prop :=
  ∀ (s : State) (xs ys xe ye : Coord), s.phase = .idle →
    ¬ (xs.toNat < xe.toNat ∧ xe.toNat ≤ 240 ∧ ys.toNat < ye.toNat ∧ ye.toNat ≤ 240) →
    exec (.setwindow xs ys xe ye) s = .next { s with
      req := setwindowWord xs ys xe ye
      status := .invalidWindow
      resp := some (if s.initDone = true then 0x0B#8 else 0x03#8)
      sub := .none
      tl := []
      seq := 0 }

/-- 60_exceptions.md R183, R188: SETWINDOW, CLEAR and RENDER that pass their own checks end with NotInitialized while
INIT_DONE is 0, with no transaction and no latch written. RENDER has encoded its image by then (R170). -/
def Obligations.NotInitializedEndsRequest : Prop :=
  ∀ s : State, s.phase = .idle → s.initDone = false →
    (∀ xs ys xe ye : Coord, xs.toNat < xe.toNat → xe.toNat ≤ 240 → ys.toNat < ye.toNat → ye.toNat ≤ 240 →
      exec (.setwindow xs ys xe ye) s = .next { s with
        req := setwindowWord xs ys xe ye
        status := .notInitialized
        resp := some 0x05#8
        sub := .none
        tl := []
        seq := 0 }) ∧
    exec .clear s = .next { s with
      req := 0x0000000000000003#64
      status := .notInitialized
      resp := some 0x05#8
      sub := .none
      tl := []
      seq := 0 } ∧
    (s.image.width = 240 → s.image.height = 240 → 3 ≤ s.image.channels →
      ∃ t, exec .render s = .next t ∧
        t = { s with
          req := 0x0000000000000002#64
          status := .notInitialized
          resp := some 0x05#8
          sub := .none
          tl := []
          seq := 0
          nb := t.nb
          draws := t.draws })

/-- 41_frame_transfer.md R153, R171, 60_exceptions.md R185, R188: an image of another size, or with fewer than three
channels, ends RENDER with DimensionMismatch whatever INIT_DONE is, with no transaction and NB as it was. -/
def Obligations.DimensionMismatchEndsRender : Prop :=
  ∀ s : State, s.phase = .idle → (s.image.width ≠ 240 ∨ s.image.height ≠ 240 ∨ s.image.channels < 3) →
    exec .render s = .next { s with
      req := 0x0000000000000002#64
      status := .dimensionMismatch
      resp := some (if s.initDone = true then 0x0A#8 else 0x02#8)
      sub := .none
      tl := []
      seq := 0 }

/-- 41_frame_transfer.md R170, R152, R150: the acceptance of RENDER: NB holds the packed image, the latches the
full-panel window, TL the window sequence and the chunks of NB. The value of `draws` is the model's (log 5). -/
def Obligations.RenderAccepted : Prop :=
  ∀ s : State, s.phase = .idle → s.initDone = true → s.nb.wf = true →
    s.image.width = 240 → s.image.height = 240 → 3 ≤ s.image.channels →
    ∃ t, exec .render s = .next t ∧
      t = { s with
        req := 0x0000000000000002#64
        resp := none
        wxs := 0#12
        wys := 0#12
        wxe := 240#12
        wye := 240#12
        phase := .render
        sub := .window
        seq := 0
        tl :=
          [.cmd s.params.cmdCaset, .data [0x00#8, 0x00#8, 0x00#8, 0xEF#8],
            .cmd s.params.cmdRaset, .data [0x00#8, 0x00#8, 0x00#8, 0xEF#8],
            .cmd s.params.cmdRamwr, .pinDc .data] ++
          (chunks (t.nb.readRun 0 115200) s.params.chunkMax).map .data
        nb := t.nb
        draws := t.draws } ∧
      (∀ x y, x < 240 → y < 240 →
        t.nb.read (2 * (y * 240 + x)) =
          (s.image.read s.draws x y 0 &&& 0xF8#8) ||| (s.image.read s.draws x y 1 >>> 5) ∧
        t.nb.read (2 * (y * 240 + x) + 1) =
          ((s.image.read s.draws x y 1 <<< 3) &&& 0xE0#8) ||| (s.image.read s.draws x y 2 >>> 3)) ∧
      (∀ a, 115200 ≤ a → t.nb.read a = s.nb.read a)

/-- 41_frame_transfer.md R175, R176: the acceptance of CLEAR: NB is 0xFF throughout, and the list is the one of
RENDER. The image source is not read. -/
def Obligations.ClearAccepted : Prop :=
  ∀ s : State, s.phase = .idle → s.initDone = true → s.nb.wf = true →
    ∃ t, exec .clear s = .next t ∧
      t = { s with
        req := 0x0000000000000003#64
        resp := none
        wxs := 0#12
        wys := 0#12
        wxe := 240#12
        wye := 240#12
        phase := .clear
        sub := .window
        seq := 0
        tl :=
          [.cmd s.params.cmdCaset, .data [0x00#8, 0x00#8, 0x00#8, 0xEF#8],
            .cmd s.params.cmdRaset, .data [0x00#8, 0x00#8, 0x00#8, 0xEF#8],
            .cmd s.params.cmdRamwr, .pinDc .data] ++
          (chunks (t.nb.readRun 0 115200) s.params.chunkMax).map .data
        nb := t.nb } ∧
      (∀ a, a < 115200 → t.nb.read a = 0xFF#8) ∧ (∀ a, 115200 ≤ a → t.nb.read a = s.nb.read a)

/-- 30_encoding.md R85, 10_state.md R36: no request is accepted while one runs: a step takes no call of the host and
does not write REQ, whatever the host presents. That a request's meaning executed there refuses, under a name of its
own, is the model's choice (log 14). -/
def Obligations.RequestRefusedWhileBusy : Prop :=
  ∀ (s : State) (xs ys xe ye : Coord), s.phase ≠ .idle →
    (∀ s', s.ir = none → step s = .next s' → s'.host = s.host ∧ s'.req = s.req ∧ s'.image = s.image) ∧
    exec .init s = .refused .requestWhileBusy ∧ exec .render s = .refused .requestWhileBusy ∧
    exec .clear s = .refused .requestWhileBusy ∧ exec (.setwindow xs ys xe ye) s = .refused .requestWhileBusy

/-! ## Sub-operations -/

/-- 40_controller_protocol.md R120, R141: RESET issues the reset pulse; the reset line ends HIGH and the observer has
forgotten everything. -/
def Obligations.ResetIssuesPulse : Prop :=
  ∀ s : State, State.AnswersOk resetList s →
    exec .reset s = .next { s with
      sub := .reset
      transport := s.transport.drop 6
      log := s.log ++ [(.pinRst .high, .ok), (.sleep 10, .ok), (.pinRst .low, .ok), (.sleep 10, .ok),
        (.pinRst .high, .ok), (.sleep 10, .ok)]
      rstShadow := .high
      panel := { configured := false, col := none, row := none, armed := none, expect := .nothing, gram := [] } }

/-- 10_state.md R26, 40_controller_protocol.md R122, R123: TABLE issues the table's entries in order, each once, and
the tail. -/
def Obligations.TableIssuesEntriesAndTail : Prop :=
  ∀ s : State, State.AnswersOk (tableList s.params ++ tailList s.params) s →
    exec .table s = .next { s with
      sub := .table
      transport := s.transport.drop ((s.params.initTable.map TableEntry.count).sum + 4)
      log := s.log ++ okEntries
        (s.params.initTable.flatMap (fun e =>
          [.cmd e.cmd] ++ (if 0 < e.params.length then [.data e.params] else []) ++
            (match e.delay with
              | some ms => [.sleep ms]
              | none => [])) ++
        [.cmd s.params.cmdSlpout, .sleep 120, .cmd s.params.cmdDispon, .sleep 20])
      dcShadow := .command
      panel := s.panel.observeAll s.params (okEntries (tableList s.params ++ tailList s.params)) }

/-- 40_controller_protocol.md R130, R145: WINDOW issues the window sequence of the latches and leaves the observer
armed for that window, no pixel changed. That the observer reads the three commands as such needs command bytes that
differ. -/
def Obligations.WindowArmsPanel : Prop :=
  ∀ s : State,
    s.wxs.toNat < s.wxe.toNat → s.wxe.toNat ≤ 240 → s.wys.toNat < s.wye.toNat → s.wye.toNat ≤ 240 →
    State.AnswersOk (windowList s.params s.wxs s.wys s.wxe s.wye) s →
    ∃ t, exec .window s = .next t ∧
      t = { s with
        sub := .window
        transport := s.transport.drop 5
        log := s.log ++ okEntries
          [.cmd s.params.cmdCaset,
            .data [0x00#8, BitVec.ofNat 8 s.wxs.toNat, 0x00#8, BitVec.ofNat 8 (s.wxe.toNat - 1)],
            .cmd s.params.cmdRaset,
            .data [0x00#8, BitVec.ofNat 8 s.wys.toNat, 0x00#8, BitVec.ofNat 8 (s.wye.toNat - 1)],
            .cmd s.params.cmdRamwr]
        dcShadow := .command
        panel := t.panel } ∧
      (s.params.distinct = true → t.panel = { s.panel with
        col := some (BitVec.ofNat 8 s.wxs.toNat, BitVec.ofNat 8 (s.wxe.toNat - 1))
        row := some (BitVec.ofNat 8 s.wys.toNat, BitVec.ofNat 8 (s.wye.toNat - 1))
        armed := some ⟨s.wxs.toNat, s.wys.toNat, s.wxe.toNat - 1, s.wye.toNat - 1, 0, none⟩
        expect := .nothing })

/-- WINDOW with latches that fail the window check of 40_controller_protocol.md R131 ends with InvalidWindow and no
transaction: the model's choice (log 11). -/
def Obligations.WindowOfInvalidLatchesRaises : Prop :=
  ∀ s : State, ¬ (s.wxs.toNat < s.wxe.toNat ∧ s.wxe.toNat ≤ 240 ∧ s.wys.toNat < s.wye.toNat ∧ s.wye.toNat ≤ 240) →
    exec .window s = .next { s with
      phase := .idle
      sub := .none
      tl := []
      seq := 0
      status := .invalidWindow
      initDone := if s.phase = .init then false else s.initDone
      resp := some (respWord (if s.phase = .init then false else s.initDone) .invalidWindow) }

/-- 41_frame_transfer.md R152, R153, R150: ENCODE fills NB with the packed image and issues nothing; an image that
does not fit raises DimensionMismatch and writes no byte of NB. The value of `draws` is the model's (log 5). -/
def Obligations.EncodeFillsBufferFromImage : Prop :=
  ∀ s : State, s.nb.wf = true →
    (s.image.width = 240 → s.image.height = 240 → 3 ≤ s.image.channels →
      ∃ t, exec .encode s = .next t ∧ t = { s with sub := .encode, nb := t.nb, draws := t.draws } ∧
        (∀ x y, x < 240 → y < 240 →
          t.nb.read (2 * (y * 240 + x)) ++ t.nb.read (2 * (y * 240 + x) + 1) =
            packPixel (s.image.read s.draws x y 0) (s.image.read s.draws x y 1) (s.image.read s.draws x y 2)) ∧
        (∀ a, 115200 ≤ a → t.nb.read a = s.nb.read a)) ∧
    ((s.image.width ≠ 240 ∨ s.image.height ≠ 240 ∨ s.image.channels < 3) →
      exec .encode s = .next { s with
        phase := .idle
        sub := .none
        tl := []
        seq := 0
        status := .dimensionMismatch
        initDone := if s.phase = .init then false else s.initDone
        resp := some (respWord (if s.phase = .init then false else s.initDone) .dimensionMismatch) })

/-- 41_frame_transfer.md R176: FILL sets all 115200 bytes of NB to 0xFF; no transaction, no exception. -/
def Obligations.FillSetsEveryByte : Prop :=
  ∀ s : State, s.nb.wf = true →
    ∃ t, exec .fill s = .next t ∧ t = { s with sub := .fill, nb := t.nb } ∧
      (∀ a, a < 115200 → t.nb.read a = 0xFF#8) ∧ (∀ a, 115200 ≤ a → t.nb.read a = s.nb.read a)

/-- 41_frame_transfer.md R160, R161: TRANSFER sets the line to data once and sends all of NB in chunks, in order,
with no CMD. -/
def Obligations.TransferSendsBufferInChunks : Prop :=
  ∀ s : State, State.AnswersOk (transferList s.params (s.nb.readRun 0 115200)) s →
    ∃ t, exec .transfer s = .next t ∧
      t = { s with
        sub := .transfer
        transport := s.transport.drop (1 + (115200 + s.params.chunkMax - 1) / s.params.chunkMax)
        log := t.log
        dcShadow := .data
        panel := s.panel.observeAll s.params (okEntries (transferList s.params (s.nb.readRun 0 115200))) } ∧
      t.log = s.log ++ (.pinDc .data, .ok) ::
        (List.range ((115200 + s.params.chunkMax - 1) / s.params.chunkMax)).map fun k =>
          (.data (s.nb.readRun (k * s.params.chunkMax) (min s.params.chunkMax (115200 - k * s.params.chunkMax))), .ok)

/-! ## Panel commands -/

/-- 40_controller_protocol.md R132, R141: CASET sends its command byte and four parameter bytes and sets the column
range the observer holds. The operands are the two bytes as sent, start and inclusive last (log 19). -/
def Obligations.CasetSetsColumns : Prop :=
  ∀ (s : State) (a b : Byte), State.AnswersOk [.cmd s.params.cmdCaset, .data [0x00#8, a, 0x00#8, b]] s →
    exec (.caset a b) s = .next { s with
      transport := s.transport.drop 2
      log := s.log ++ [(.cmd s.params.cmdCaset, .ok), (.data [0x00#8, a, 0x00#8, b], .ok)]
      dcShadow := .data
      panel := { s.panel with col := some (a, b), armed := none, expect := .nothing } }

/-- 40_controller_protocol.md R133, R141: RASET likewise for the row range; with a command byte that is CASET's the
panel would read it as CASET. The operands are the two bytes as sent, start and inclusive last (log 19). -/
def Obligations.RasetSetsRows : Prop :=
  ∀ (s : State) (a b : Byte), State.AnswersOk [.cmd s.params.cmdRaset, .data [0x00#8, a, 0x00#8, b]] s →
    ∃ t, exec (.raset a b) s = .next t ∧
      t = { s with
        transport := s.transport.drop 2
        log := s.log ++ [(.cmd s.params.cmdRaset, .ok), (.data [0x00#8, a, 0x00#8, b], .ok)]
        dcShadow := .data
        panel := t.panel } ∧
      (s.params.cmdRaset ≠ s.params.cmdCaset →
        t.panel = { s.panel with row := some (a, b), armed := none, expect := .nothing })

/-- 40_controller_protocol.md R134, R141: RAMWR sends its command byte and arms the observer for the two ranges, or
makes it forget where one is missing. -/
def Obligations.RamwrArmsForRanges : Prop :=
  ∀ s : State, State.AnswersOk [.cmd s.params.cmdRamwr] s →
    ∃ t, exec .ramwr s = .next t ∧
      t = { s with
        transport := s.transport.drop 1
        log := s.log ++ [(.cmd s.params.cmdRamwr, .ok)]
        dcShadow := .command
        panel := t.panel } ∧
      (s.params.distinct = true →
        (∀ x0 x1 y0 y1 : Byte, s.panel.col = some (x0, x1) → s.panel.row = some (y0, y1) →
          t.panel = { s.panel with
            armed := some ⟨x0.toNat, y0.toNat, x1.toNat, y1.toNat, 0, none⟩, expect := .nothing }) ∧
        (s.panel.col = none ∨ s.panel.row = none →
          t.panel = { s.panel with armed := none, expect := .nothing, gram := [] }))

/-- 40_controller_protocol.md R135, R136, R141: SLPOUT and DISPON send their command byte and their settle delay of
120 ms and 20 ms; the observer is no longer armed and forgets every pixel. -/
def Obligations.SleepOutAndDisplayOnSettle : Prop :=
  ∀ s : State,
    (State.AnswersOk [.cmd s.params.cmdSlpout, .sleep 120] s →
      ∃ t, exec .slpout s = .next t ∧
        t = { s with
          transport := s.transport.drop 2
          log := s.log ++ [(.cmd s.params.cmdSlpout, .ok), (.sleep 120, .ok)]
          dcShadow := .command
          panel := t.panel } ∧
        (s.params.distinct = true → t.panel = { s.panel with armed := none, expect := .nothing, gram := [] })) ∧
    (State.AnswersOk [.cmd s.params.cmdDispon, .sleep 20] s →
      ∃ t, exec .dispon s = .next t ∧
        t = { s with
          transport := s.transport.drop 2
          log := s.log ++ [(.cmd s.params.cmdDispon, .ok), (.sleep 20, .ok)]
          dcShadow := .command
          panel := t.panel } ∧
        (s.params.distinct = true → t.panel = { s.panel with armed := none, expect := .nothing, gram := [] }))

/-- 40_controller_protocol.md R137, 30_encoding.md R96: a vendor command is sent verbatim: its byte, one DATA with all
its parameters if it has any, and its delay if it has one. -/
def Obligations.VendorCommandSentVerbatim : Prop :=
  ∀ (s : State) (c : Byte) (ps : List Byte) (d : Option Nat), State.AnswersOk (vendorTxns c ps d) s →
    ∃ t, exec (.initTable c ps d) s = .next t ∧
      t = { s with
        transport := s.transport.drop (TableEntry.count ⟨c, ps, d⟩)
        log := t.log
        dcShadow := if ps = [] then .command else .data
        panel := s.panel.observeAll s.params (okEntries (vendorTxns c ps d)) } ∧
      t.log = s.log ++ (.cmd c, .ok) :: ((if ps = [] then [] else [(.data ps, .ok)]) ++
        (match d with
          | some ms => [(.sleep ms, .ok)]
          | none => []))

/-- 40_controller_protocol.md R110, R112, R144, 60_exceptions.md R184, R187: an operation made of transactions stops at
the first that fails, with TransportFailure. The shadows are what the transactions up to and with that one make them
(DC_SHADOW after the FAIL of a SLEEP or PIN(RST): log 34). -/
def Obligations.FirstFailureStopsOperation : Prop :=
  ∀ (s : State) (i : Instr) (before after : List Txn) (t : Txn), s.txnsOf i = some (before ++ t :: after) →
    State.FailsAfter before t s →
    exec i s = .next { s with
      phase := .idle
      sub := .none
      tl := []
      seq := 0
      status := .transportFailure
      initDone := if s.phase = .init then false else s.initDone
      resp := some (respWord (if s.phase = .init then false else s.initDone) .transportFailure)
      transport := s.transport.drop (before.length + 1)
      log := s.log ++ okEntries before ++ [(t, .fail)]
      dcShadow := nextDcShadow (before.foldl (fun d u => nextDcShadow d u .ok) s.dcShadow) t .fail
      rstShadow := nextRstShadow (before.foldl (fun r u => nextRstShadow r u .ok) s.rstShadow) t .fail
      panel := { configured := false, col := none, row := none, armed := none, expect := .nothing, gram := [] } }

/-! ## Data -/

/-- 41_frame_transfer.md R151: the packed pixel keeps the top 5, 6 and 5 bits of the channels, and nothing else of
them. -/
def Obligations.PackKeepsTopBits : Prop :=
  (∀ r g b : Byte,
    (packPixel r g b).extractLsb' 11 5 = r.extractLsb' 3 5 ∧
    (packPixel r g b).extractLsb' 5 6 = g.extractLsb' 2 6 ∧
    (packPixel r g b).extractLsb' 0 5 = b.extractLsb' 3 5) ∧
  packPixel 0x00#8 0x00#8 0x00#8 = 0x0000#16 ∧ packPixel 0xFF#8 0xFF#8 0xFF#8 = 0xFFFF#16 ∧
  (∀ r g b r' g' b' : Byte, r.extractLsb' 3 5 = r'.extractLsb' 3 5 → g.extractLsb' 2 6 = g'.extractLsb' 2 6 →
    b.extractLsb' 3 5 = b'.extractLsb' 3 5 → packPixel r g b = packPixel r' g' b')

/-- 30_encoding.md R84, 60_exceptions.md R180: the fields of the response word, and that a host reads back the status
and INIT_DONE from it. -/
def Obligations.ResponseWordFields : Prop :=
  ∀ (d : Bool) (st : Status),
    (respWord d st).extractLsb' 0 3 = st.code ∧ (respWord d st).getLsbD 3 = d ∧
    (respWord d st).extractLsb' 4 4 = 0#4 ∧ readResponse (respWord d st) = some (st, d) ∧ st.code.toNat ≤ 5

/-- 41_frame_transfer.md R160, R162: the chunks' number, lengths and concatenation. -/
def Obligations.ChunksSplitTheBytes : Prop :=
  ∀ (bs : List Byte) (c : Nat), 1 ≤ c →
    (chunks bs c).length = (bs.length + c - 1) / c ∧
    (∀ ch ∈ chunks bs c, 1 ≤ ch.length ∧ ch.length ≤ c) ∧
    (chunks bs c).flatten = bs ∧
    (∀ (k : Nat) (ch : List Byte), (chunks bs c)[k]? = some ch → k + 1 < (chunks bs c).length → ch.length = c)

/-- 41_frame_transfer.md R163: the chunks of the native buffer, for each size of CHUNK_MAX and for three of them in
full. -/
def Obligations.BufferChunkCounts : Prop :=
  ∀ bs : List Byte, bs.length = 115200 →
    (chunks bs 4096).length = 29 ∧
    (∀ k, k < 28 → (chunks bs 4096)[k]? = some ((bs.drop (4096 * k)).take 4096)) ∧
    (chunks bs 4096)[28]? = some (bs.drop 114688) ∧ (bs.drop 114688).length = 512 ∧
    (chunks bs 1).length = 115200 ∧
    (∀ c, 115200 ≤ c → chunks bs c = [bs]) ∧
    (∀ c, 1 ≤ c → (chunks bs c).length = (115200 + c - 1) / c)

/-! ## What the panel holds -/

/-- 40_controller_protocol.md R142, R143: DATA to a configured observer armed for any window of the panel. The bytes
count as one stream however they are cut into DATA, a pending high byte first. Each pair is a pixel, most significant
byte first, and pixel `j + k` lands at `(x0 + (j + k) mod w, y0 + (j + k) div w)`; no other pixel changes; a trailing
odd byte stays pending and is not written. A pair past the window's last pixel makes every pixel UNKNOWN. -/
def Obligations.ArmedWindowTakesDataInOrder : Prop :=
  ∀ (c : Params) (p : Panel) (x0 y0 x1 y1 j : Nat) (hi : Option Byte) (bss : List (List Byte)),
    p.configured = true → p.expect = .nothing → p.armed = some ⟨x0, y0, x1, y1, j, hi⟩ →
    x0 ≤ x1 → x1 < 240 → y0 ≤ y1 → y1 < 240 → Cells.rising 0 p.gram = true →
    ∀ (stream : List Byte) (n w h : Nat) (q : Panel), stream = hi.toList ++ bss.flatten → n = stream.length / 2 →
      w = x1 - x0 + 1 → h = y1 - y0 + 1 → q = p.observeAll c (okEntries (bss.map .data)) →
      q.armed = some ⟨x0, y0, x1, y1, j + n, stream[2 * n]?⟩ ∧
      (j + n ≤ w * h →
        (∀ k a b, stream[2 * k]? = some a → stream[2 * k + 1]? = some b →
          q.pixel (x0 + (j + k) % w) (y0 + (j + k) / w) = some (a ++ b)) ∧
        (∀ x y, x < 240 → y < 240 → (∀ k, k < n → ¬ (x = x0 + (j + k) % w ∧ y = y0 + (j + k) / w)) →
          q.pixel x y = p.pixel x y)) ∧
      (1 ≤ n → w * h < j + n → ∀ x y, q.pixel x y = none)

/-- 40_controller_protocol.md R142, 41_frame_transfer.md R164, R172: TRANSFER to an observer armed for the full panel
puts every pixel of NB at its place, whatever the chunk size (any window: ArmedWindowTakesDataInOrder). That the panel
shows it needs IT-1 and IT-2 (log 21). -/
def Obligations.TransferPaintsArmedPanel : Prop :=
  ∀ s : State, 1 ≤ s.params.chunkMax → s.panel.configured = true →
    s.panel.armed = some ⟨0, 0, 239, 239, 0, none⟩ → Cells.rising 0 s.panel.gram = true →
    State.AnswersOk (transferList s.params (s.nb.readRun 0 115200)) s →
    ∃ t, exec .transfer s = .next t ∧ t.panel.armed = some ⟨0, 0, 239, 239, 57600, none⟩ ∧
      ∀ x y, x < 240 → y < 240 →
        t.panel.pixel x y = some (s.nb.read (2 * (y * 240 + x)) ++ s.nb.read (2 * (y * 240 + x) + 1))

/-- 41_frame_transfer.md R172: a RENDER accepted while the observer is configured, all its transactions answered OK,
ends with OK after 6 + ceil(115200 / CHUNK_MAX) transactions, and every pixel of the observer is the packed pixel of
the image. That the panel shows it needs IT-1 and IT-2 (log 21). -/
def Obligations.RenderPaintsImage : Prop :=
  ∀ s t : State, s.Inv → s.params.distinct = true → 1 ≤ s.params.chunkMax → s.phase = .idle →
    s.panel.configured = true →
    s.image.width = 240 → s.image.height = 240 → 3 ≤ s.image.channels →
    exec .render s = .next t → State.AnswersOk t.tl t →
    ∃ u : State, Sys2Proof.core.run (6 + (115200 + s.params.chunkMax - 1) / s.params.chunkMax) t = .next u ∧
      u.phase = .idle ∧ u.resp = some 0x08#8 ∧
      u.log.length = s.log.length + (6 + (115200 + s.params.chunkMax - 1) / s.params.chunkMax) ∧
      u.panel.armed = some ⟨0, 0, 239, 239, 57600, none⟩ ∧
      ∀ x y, x < 240 → y < 240 →
        u.panel.pixel x y = some (packPixel (s.image.read s.draws x y 0) (s.image.read s.draws x y 1)
          (s.image.read s.draws x y 2))

/-- 41_frame_transfer.md R177: a CLEAR accepted while the observer is configured, all its transactions answered OK,
leaves every pixel white. -/
def Obligations.ClearPaintsWhite : Prop :=
  ∀ s t : State, s.Inv → s.params.distinct = true → 1 ≤ s.params.chunkMax → s.phase = .idle →
    s.panel.configured = true → exec .clear s = .next t → State.AnswersOk t.tl t →
    ∃ u : State, Sys2Proof.core.run (6 + (115200 + s.params.chunkMax - 1) / s.params.chunkMax) t = .next u ∧
      u.phase = .idle ∧ u.resp = some 0x08#8 ∧
      ∀ x y, x < 240 → y < 240 → u.panel.pixel x y = some 0xFFFF#16

/-- 40_controller_protocol.md R121, R145: an INIT answered OK throughout ends with OK, INIT_DONE 1 and the observer
configured, not armed and knowing no pixel, with the reset line HIGH, and LOG has gained exactly INIT's list. -/
def Obligations.InitConfiguresPanel : Prop :=
  ∀ s t : State, s.ir = none → s.phase = .idle → s.params.distinct = true →
    exec .init s = .next t → State.AnswersOk t.tl t →
    ∃ u : State, Sys2Proof.core.run (6 + (s.params.initTable.map TableEntry.count).sum + 4) t = .next u ∧
      u.phase = .idle ∧ u.status = .ok ∧ u.resp = some 0x08#8 ∧ u.initDone = true ∧
      u.log = s.log ++ okEntries (resetList ++ tableList s.params ++ tailList s.params) ∧
      u.rstShadow = .high ∧ u.dcShadow = .command ∧
      u.panel.configured = true ∧ u.panel.armed = none ∧ ∀ x y, u.panel.pixel x y = none
end

