-- ==== Sys2Proof/Laws/Decode.lean ====
section
/-! SUPPORT. Where the stream decoder cuts a transaction stream: the records that go on with a frame and those that
end it (30_encoding.md R98). -/

namespace Sys2Proof

@[simp] theorem takeData_nil : takeData [] = ([], []) := rfl
@[simp] theorem takeData_data (bs : List Byte) (ts : List Txn) :
    takeData (.data bs :: ts) = (bs ++ (takeData ts).1, (takeData ts).2) := rfl
@[simp] theorem takeData_cmd (b : Byte) (ts : List Txn) : takeData (.cmd b :: ts) = ([], .cmd b :: ts) := rfl
@[simp] theorem takeData_pinRst (l : Level) (ts : List Txn) :
    takeData (.pinRst l :: ts) = ([], .pinRst l :: ts) := rfl
@[simp] theorem takeData_pinDc (l : DcState) (ts : List Txn) : takeData (.pinDc l :: ts) = ([], .pinDc l :: ts) := rfl
@[simp] theorem takeData_sleep (ms : Nat) (ts : List Txn) : takeData (.sleep ms :: ts) = ([], .sleep ms :: ts) := rfl

/-- A run of DATAs is taken whole, before whatever follows it. -/
theorem takeData_map_append (bss : List (List Byte)) (ts : List Txn) :
    takeData (bss.map .data ++ ts) = (bss.flatten ++ (takeData ts).1, (takeData ts).2) := by
  induction bss with
  | nil => rfl
  | cons bs bss ih => simp [ih]

/-- What is left after the DATAs starts with no DATA. -/
theorem takeData_snd_ne_data (ts rest : List Txn) (bs : List Byte) : (takeData ts).2 ≠ .data bs :: rest := by
  induction ts with
  | nil => simp
  | cons t ts ih => cases t <;> simp [ih]

end Sys2Proof
end

