-- ==== Sys2Proof/Laws/Memory.lean ====
section
/-! SUPPORT. Read after write for sparse contents and for the native buffer, and that every memory operation keeps
the canonical form. -/

namespace Sys2Proof.Machine

section
variable {α : Type}

/-! ## Sparse contents -/

theorem Cells.get?_put (m : List (Nat × α)) (a : Nat) (b : α) (c : Nat) (lo : Nat)
    (h : Cells.rising lo m = true) :
    Cells.get? (Cells.put m a b) c = if c = a then some b else Cells.get? m c := by
  induction m generalizing lo with
  | nil => simp [Cells.put, Cells.get?, eq_comm (a := a)]
  | cons e m ih =>
    obtain ⟨k, v⟩ := e
    simp only [Cells.rising, Bool.and_eq_true, decide_eq_true_eq] at h
    simp only [Cells.put]
    split
    · simp [Cells.get?, eq_comm (a := a)]
    · split
      · next hk =>
        subst hk
        by_cases hc : a = c
        · simp [Cells.get?, hc]
        · simp [Cells.get?, hc, Ne.symm hc]
      · by_cases hk : k = c
        · have : c ≠ a := by omega
          simp [Cells.get?, hk, this]
        · simp [Cells.get?, hk, ih _ h.2]

/-- A place below every listed one is not listed. -/
theorem Cells.get?_below (m : List (Nat × α)) (a lo : Nat) (h : Cells.rising lo m = true) (ha : a < lo) :
    Cells.get? m a = none := by
  induction m generalizing lo with
  | nil => rfl
  | cons e m ih =>
    obtain ⟨k, v⟩ := e
    simp only [Cells.rising, Bool.and_eq_true, decide_eq_true_eq] at h
    have : k ≠ a := by omega
    simp [Cells.get?, this, ih _ h.2 (by omega)]

theorem Cells.get?_erase (m : List (Nat × α)) (a c lo : Nat) (h : Cells.rising lo m = true) :
    Cells.get? (Cells.erase m a) c = if c = a then none else Cells.get? m c := by
  induction m generalizing lo with
  | nil => simp [Cells.erase, Cells.get?]
  | cons e m ih =>
    obtain ⟨k, v⟩ := e
    simp only [Cells.rising, Bool.and_eq_true, decide_eq_true_eq] at h
    simp only [Cells.erase]
    split
    · next hk =>
      by_cases hc : c = a
      · rw [if_pos hc]
        exact Cells.get?_below m c (k + 1) h.2 (by omega)
      · have : k ≠ c := by omega
        simp [Cells.get?, hc, this]
    · by_cases hk : k = c
      · have : c ≠ a := by omega
        simp [Cells.get?, hk, this]
      · simp [Cells.get?, hk, ih _ h.2]

theorem Cells.rising_mono (m : List (Nat × α)) {lo lo' : Nat} (h : Cells.rising lo m = true) (hl : lo' ≤ lo) :
    Cells.rising lo' m = true := by
  cases m with
  | nil => rfl
  | cons e m =>
    obtain ⟨k, v⟩ := e
    simp only [Cells.rising, Bool.and_eq_true, decide_eq_true_eq] at h ⊢
    exact ⟨by omega, h.2⟩

theorem Cells.rising_put (m : List (Nat × α)) (a : Nat) (b : α) (lo : Nat) (h : Cells.rising lo m = true)
    (ha : lo ≤ a) : Cells.rising lo (Cells.put m a b) = true := by
  induction m generalizing lo with
  | nil => simp [Cells.put, Cells.rising, ha]
  | cons e m ih =>
    obtain ⟨k, v⟩ := e
    simp only [Cells.rising, Bool.and_eq_true, decide_eq_true_eq] at h
    simp only [Cells.put]
    split
    · simp only [Cells.rising, Bool.and_eq_true, decide_eq_true_eq]
      exact ⟨ha, by omega, h.2⟩
    · split
      · next hk => subst hk; simp [Cells.rising, h.1, h.2]
      · simp only [Cells.rising, Bool.and_eq_true, decide_eq_true_eq]
        exact ⟨h.1, ih _ h.2 (by omega)⟩

theorem Cells.rising_erase (m : List (Nat × α)) (a lo : Nat) (h : Cells.rising lo m = true) :
    Cells.rising lo (Cells.erase m a) = true := by
  induction m generalizing lo with
  | nil => rfl
  | cons e m ih =>
    obtain ⟨k, v⟩ := e
    simp only [Cells.rising, Bool.and_eq_true, decide_eq_true_eq] at h
    simp only [Cells.erase]
    split
    · exact Cells.rising_mono m h.2 (by omega)
    · simp only [Cells.rising, Bool.and_eq_true, decide_eq_true_eq]
      exact ⟨h.1, ih _ h.2⟩

/-- What `put` lists is the new entry or was listed. -/
theorem Cells.mem_put (m : List (Nat × α)) (a : Nat) (b : α) (e : Nat × α) (h : e ∈ Cells.put m a b) :
    e = (a, b) ∨ e ∈ m := by
  induction m with
  | nil => simpa [Cells.put] using h
  | cons x m ih =>
    obtain ⟨k, v⟩ := x
    simp only [Cells.put] at h
    split at h
    · simpa using h
    · split at h <;> simp only [List.mem_cons] at h ⊢ <;> tauto

theorem Cells.mem_erase (m : List (Nat × α)) (a : Nat) (e : Nat × α) (h : e ∈ Cells.erase m a) : e ∈ m := by
  induction m with
  | nil => simp [Cells.erase] at h
  | cons x m ih =>
    obtain ⟨k, v⟩ := x
    simp only [Cells.erase] at h
    split at h <;> simp only [List.mem_cons] at h ⊢ <;> tauto

theorem Cells.below_put (m : List (Nat × α)) (a : Nat) (b : α) (n : Nat) (h : Cells.below n m = true) (ha : a < n) :
    Cells.below n (Cells.put m a b) = true := by
  simp only [Cells.below, List.all_eq_true, decide_eq_true_eq] at h ⊢
  intro e he
  rcases Cells.mem_put m a b e he with rfl | hm
  · exact ha
  · exact h e hm

end

/-! ## The native buffer -/

/-- What the canonical form says, in parts. -/
theorem Memory.wf_iff (m : Memory) :
    m.wf = true ↔ Cells.rising 0 m = true ∧ (∀ e ∈ m, e.1 < Config.nbSize) ∧ ∀ e ∈ m, e.2 ≠ Memory.unlisted := by
  simp [Memory.wf, Cells.below, and_assoc]

@[simp] theorem Memory.wf_nil : Memory.wf [] = true := rfl

theorem Memory.read_write (m : Memory) (a : Nat) (b : Byte) (c : Nat) (h : m.wf = true) :
    (m.write a b).read c = if c = a then b else m.read c := by
  have hr := ((Memory.wf_iff m).mp h).1
  by_cases hb : b = Memory.unlisted
  · simp only [Memory.write, Memory.read, hb, if_true, Cells.get?_erase m a c 0 hr]
    split <;> rfl
  · simp only [Memory.write, Memory.read, hb, if_false, Cells.get?_put m a b c 0 hr]
    split <;> rfl

theorem Memory.wf_write (m : Memory) (a : Nat) (b : Byte) (h : m.wf = true) (ha : a < Config.nbSize) :
    (m.write a b).wf = true := by
  obtain ⟨hr, hn, hu⟩ := (Memory.wf_iff m).mp h
  rw [Memory.wf_iff]
  by_cases hb : b = Memory.unlisted
  · simp only [Memory.write, hb, if_true]
    exact ⟨Cells.rising_erase m a 0 hr, fun e he => hn e (Cells.mem_erase m a e he),
      fun e he => hu e (Cells.mem_erase m a e he)⟩
  · simp only [Memory.write, hb, if_false]
    refine ⟨Cells.rising_put m a b 0 hr (by omega), fun e he => ?_, fun e he => ?_⟩
    · rcases Cells.mem_put m a b e he with rfl | hm
      · exact ha
      · exact hn e hm
    · rcases Cells.mem_put m a b e he with rfl | hm
      · exact hb
      · exact hu e hm

theorem Memory.wf_writeRun (m : Memory) (i n : Nat) (f : Nat → Byte) (h : m.wf = true)
    (hn : i + n ≤ Config.nbSize) : (m.writeRun i n f).wf = true := by
  induction n generalizing m with
  | zero => exact h
  | succ n ih => exact ih _ (Memory.wf_write m _ _ h (by omega)) (by omega)

/-- A run of writes gives the bytes written, and leaves every other index alone. -/
theorem Memory.read_writeRun (m : Memory) (i n : Nat) (f : Nat → Byte) (c : Nat) (h : m.wf = true)
    (hn : i + n ≤ Config.nbSize) :
    (m.writeRun i n f).read c = if i ≤ c ∧ c < i + n then f (c - i) else m.read c := by
  induction n generalizing m with
  | zero =>
    have : ¬ (i ≤ c ∧ c < i + 0) := by omega
    rw [if_neg this, Memory.writeRun]
  | succ n ih =>
    rw [Memory.writeRun, ih _ (Memory.wf_write m _ _ h (by omega)) (by omega), Memory.read_write m _ _ _ h]
    by_cases hc : c = i + n
    · subst hc
      have h1 : ¬ (i ≤ i + n ∧ i + n < i + n) := by omega
      have h2 : i ≤ i + n ∧ i + n < i + (n + 1) := by omega
      rw [if_neg h1, if_pos h2, if_pos rfl, Nat.add_sub_cancel_left]
    · by_cases h1 : i ≤ c ∧ c < i + n
      · have h2 : i ≤ c ∧ c < i + (n + 1) := by omega
        simp [h1, h2]
      · have h2 : ¬ (i ≤ c ∧ c < i + (n + 1)) := by omega
        simp only [h1, h2, hc, if_false]

@[simp] theorem Memory.length_readRun (m : Memory) (i n : Nat) : (m.readRun i n).length = n := by
  simp [Memory.readRun]

theorem Memory.getElem_readRun (m : Memory) (i n k : Nat) (h : k < (m.readRun i n).length) :
    (m.readRun i n)[k] = m.read (i + k) := by
  simp [Memory.readRun]

end Sys2Proof.Machine
end

