-- ==== Sys2Proof/Laws/Operands.lean ====
section
/-! SUPPORT. What the operands' definitions say, each in the numbers of the spec: the window check, the dimension
check, the parameter bytes, the lists, the bytes of the encoded frame, and runs of the native buffer. -/

namespace Sys2Proof.Machine

/-- The window check of 40_controller_protocol.md R131 in numbers. -/
theorem windowOk_iff (xs ys xe ye : Coord) : windowOk xs ys xe ye = true ↔
    xs.toNat < xe.toNat ∧ xe.toNat ≤ 240 ∧ ys.toNat < ye.toNat ∧ ye.toNat ≤ 240 := by
  simp only [windowOk, Bool.and_eq_true, decide_eq_true_eq, and_assoc]
  exact Iff.rfl

/-- The dimension check of 41_frame_transfer.md R152 in numbers. -/
theorem Image.fits_iff (i : Image) : i.fits = true ↔ i.width = 240 ∧ i.height = 240 ∧ 3 ≤ i.channels := by
  simp only [Image.fits, Bool.and_eq_true, decide_eq_true_eq, and_assoc]
  exact Iff.rfl

theorem startByte_eq (v : Coord) : startByte v = BitVec.ofNat 8 v.toNat := by
  apply BitVec.eq_of_toNat_eq; simp [startByte]

theorem lastByte_eq (v : Coord) (h : 0 < v.toNat) : lastByte v = BitVec.ofNat 8 (v.toNat - 1) := by
  apply BitVec.eq_of_toNat_eq
  have : (v - 1#12).toNat = v.toNat - 1 := by bv_omega
  simp only [lastByte, BitVec.toNat_setWidth, this, BitVec.toNat_ofNat]

/-- The window sequence spelled out (40_controller_protocol.md R130). -/
theorem windowList_eq (p : Params) (xs ys xe ye : Coord) (hx : 0 < xe.toNat) (hy : 0 < ye.toNat) :
    windowList p xs ys xe ye =
      [.cmd p.cmdCaset, .data [0x00#8, BitVec.ofNat 8 xs.toNat, 0x00#8, BitVec.ofNat 8 (xe.toNat - 1)],
        .cmd p.cmdRaset, .data [0x00#8, BitVec.ofNat 8 ys.toNat, 0x00#8, BitVec.ofNat 8 (ye.toNat - 1)],
        .cmd p.cmdRamwr] := by
  simp [windowList, casetTxns, rasetTxns, ramwrTxns, frame, addressParams, startByte_eq, lastByte_eq, hx, hy]

/-- A vendor command's transactions spelled out (40_controller_protocol.md R122). -/
theorem vendorTxns_eq (c : Byte) (ps : List Byte) (d : Option Nat) :
    vendorTxns c ps d = [.cmd c] ++ (if 0 < ps.length then [.data ps] else []) ++
      (match d with
        | some ms => [.sleep ms]
        | none => []) := by
  cases ps <;> cases d <;> rfl

/-- The five named command bytes, told apart pairwise. -/
theorem Params.ne_of_distinct (p : Params) (h : p.distinct = true) :
    p.cmdRaset ≠ p.cmdCaset ∧ p.cmdRamwr ≠ p.cmdCaset ∧ p.cmdRamwr ≠ p.cmdRaset ∧
    p.cmdSlpout ≠ p.cmdCaset ∧ p.cmdSlpout ≠ p.cmdRaset ∧ p.cmdSlpout ≠ p.cmdRamwr ∧
    p.cmdDispon ≠ p.cmdCaset ∧ p.cmdDispon ≠ p.cmdRaset ∧ p.cmdDispon ≠ p.cmdRamwr := by
  simp only [Params.distinct, List.nodup_cons, decide_eq_true_eq, List.mem_cons, List.not_mem_nil, or_false,
    not_or] at h
  tauto

/-- The high byte of a pixel in the encoded frame (20_memory.md R52, R55). -/
theorem frameByte_even (img : Image) (d x y : Nat) (hx : x < 240) :
    frameByte img d (2 * (y * 240 + x)) = packHi (img.read d x y 0) (img.read d x y 1) := by
  have e1 : 2 * (y * 240 + x) / 2 = y * 240 + x := by omega
  have e2 : (y * 240 + x) % 240 = x := by omega
  have e3 : (y * 240 + x) / 240 = y := by omega
  have e4 : 2 * (y * 240 + x) % 2 = 0 := by omega
  simp only [frameByte, Config.width, e1, e2, e3, e4, if_true]

/-- The low byte of a pixel in the encoded frame (20_memory.md R52, R55). -/
theorem frameByte_odd (img : Image) (d x y : Nat) (hx : x < 240) :
    frameByte img d (2 * (y * 240 + x) + 1) = packLo (img.read d x y 1) (img.read d x y 2) := by
  have e1 : (2 * (y * 240 + x) + 1) / 2 = y * 240 + x := by omega
  have e2 : (y * 240 + x) % 240 = x := by omega
  have e3 : (y * 240 + x) / 240 = y := by omega
  have e4 : (2 * (y * 240 + x) + 1) % 2 = 1 := by omega
  simp only [frameByte, Config.width, e1, e2, e3, e4]
  rfl

/-- A part of a run of the native buffer is a run. -/
theorem Memory.readRun_part (m : Memory) (n k c : Nat) :
    ((m.readRun 0 n).drop k).take c = m.readRun k (min c (n - k)) := by
  apply List.ext_getElem
  · simp [Memory.readRun]
  · intro i h1 h2
    simp [Memory.readRun]

theorem Memory.readRun_two (m : Memory) (i n : Nat) :
    m.readRun i (n + 2) = m.read i :: m.read (i + 1) :: m.readRun (i + 2) n := by
  apply List.ext_getElem
  · simp
  · intro k h1 h2
    rw [Memory.getElem_readRun]
    rcases k with _ | _ | k
    · rfl
    · rfl
    · simp only [List.getElem_cons_succ, Memory.getElem_readRun]; congr 1; omega

end Sys2Proof.Machine
end

