-- ==== Sys2Proof/Laws/State.lean ====
section
/-! SUPPORT. One lemma per field per update of State, so that no proof unfolds an update. -/

namespace Sys2Proof.Machine

/-! ## latch -/

section
variable (s : State) (w : ReqWord)

@[simp] theorem State.latch_params : (s.latch w).params = s.params := rfl
@[simp] theorem State.latch_req : (s.latch w).req = w := rfl
@[simp] theorem State.latch_wxs : (s.latch w).wxs = s.wxs := rfl
@[simp] theorem State.latch_wys : (s.latch w).wys = s.wys := rfl
@[simp] theorem State.latch_wxe : (s.latch w).wxe = s.wxe := rfl
@[simp] theorem State.latch_wye : (s.latch w).wye = s.wye := rfl
@[simp] theorem State.latch_phase : (s.latch w).phase = s.phase := rfl
@[simp] theorem State.latch_sub : (s.latch w).sub = s.sub := rfl
@[simp] theorem State.latch_tl : (s.latch w).tl = s.tl := rfl
@[simp] theorem State.latch_seq : (s.latch w).seq = s.seq := rfl
@[simp] theorem State.latch_initDone : (s.latch w).initDone = s.initDone := rfl
@[simp] theorem State.latch_status : (s.latch w).status = s.status := rfl
@[simp] theorem State.latch_dcShadow : (s.latch w).dcShadow = s.dcShadow := rfl
@[simp] theorem State.latch_rstShadow : (s.latch w).rstShadow = s.rstShadow := rfl
@[simp] theorem State.latch_nb : (s.latch w).nb = s.nb := rfl
@[simp] theorem State.latch_resp : (s.latch w).resp = none := rfl
@[simp] theorem State.latch_log : (s.latch w).log = s.log := rfl
@[simp] theorem State.latch_panel : (s.latch w).panel = s.panel := rfl
@[simp] theorem State.latch_image : (s.latch w).image = s.image := rfl
@[simp] theorem State.latch_host : (s.latch w).host = s.host := rfl
@[simp] theorem State.latch_transport : (s.latch w).transport = s.transport := rfl
@[simp] theorem State.latch_draws : (s.latch w).draws = s.draws := rfl
@[simp] theorem State.latch_ir : (s.latch w).ir = s.ir := rfl

end

/-! ## setLatches -/

section
variable (s : State) (a b c d : Coord)

@[simp] theorem State.setLatches_params : (s.setLatches a b c d).params = s.params := rfl
@[simp] theorem State.setLatches_req : (s.setLatches a b c d).req = s.req := rfl
@[simp] theorem State.setLatches_wxs : (s.setLatches a b c d).wxs = a := rfl
@[simp] theorem State.setLatches_wys : (s.setLatches a b c d).wys = b := rfl
@[simp] theorem State.setLatches_wxe : (s.setLatches a b c d).wxe = c := rfl
@[simp] theorem State.setLatches_wye : (s.setLatches a b c d).wye = d := rfl
@[simp] theorem State.setLatches_phase : (s.setLatches a b c d).phase = s.phase := rfl
@[simp] theorem State.setLatches_sub : (s.setLatches a b c d).sub = s.sub := rfl
@[simp] theorem State.setLatches_tl : (s.setLatches a b c d).tl = s.tl := rfl
@[simp] theorem State.setLatches_seq : (s.setLatches a b c d).seq = s.seq := rfl
@[simp] theorem State.setLatches_initDone : (s.setLatches a b c d).initDone = s.initDone := rfl
@[simp] theorem State.setLatches_status : (s.setLatches a b c d).status = s.status := rfl
@[simp] theorem State.setLatches_dcShadow : (s.setLatches a b c d).dcShadow = s.dcShadow := rfl
@[simp] theorem State.setLatches_rstShadow : (s.setLatches a b c d).rstShadow = s.rstShadow := rfl
@[simp] theorem State.setLatches_nb : (s.setLatches a b c d).nb = s.nb := rfl
@[simp] theorem State.setLatches_resp : (s.setLatches a b c d).resp = s.resp := rfl
@[simp] theorem State.setLatches_log : (s.setLatches a b c d).log = s.log := rfl
@[simp] theorem State.setLatches_panel : (s.setLatches a b c d).panel = s.panel := rfl
@[simp] theorem State.setLatches_image : (s.setLatches a b c d).image = s.image := rfl
@[simp] theorem State.setLatches_host : (s.setLatches a b c d).host = s.host := rfl
@[simp] theorem State.setLatches_transport : (s.setLatches a b c d).transport = s.transport := rfl
@[simp] theorem State.setLatches_draws : (s.setLatches a b c d).draws = s.draws := rfl
@[simp] theorem State.setLatches_ir : (s.setLatches a b c d).ir = s.ir := rfl

end

/-! ## start -/

section
variable (s : State) (ph : Phase) (tl : List Txn)

@[simp] theorem State.start_params : (s.start ph tl).params = s.params := rfl
@[simp] theorem State.start_req : (s.start ph tl).req = s.req := rfl
@[simp] theorem State.start_wxs : (s.start ph tl).wxs = s.wxs := rfl
@[simp] theorem State.start_wys : (s.start ph tl).wys = s.wys := rfl
@[simp] theorem State.start_wxe : (s.start ph tl).wxe = s.wxe := rfl
@[simp] theorem State.start_wye : (s.start ph tl).wye = s.wye := rfl
@[simp] theorem State.start_phase : (s.start ph tl).phase = ph := rfl
@[simp] theorem State.start_sub : (s.start ph tl).sub = subAt ph 0 := rfl
@[simp] theorem State.start_tl : (s.start ph tl).tl = tl := rfl
@[simp] theorem State.start_seq : (s.start ph tl).seq = 0 := rfl
@[simp] theorem State.start_initDone : (s.start ph tl).initDone = s.initDone := rfl
@[simp] theorem State.start_status : (s.start ph tl).status = s.status := rfl
@[simp] theorem State.start_dcShadow : (s.start ph tl).dcShadow = s.dcShadow := rfl
@[simp] theorem State.start_rstShadow : (s.start ph tl).rstShadow = s.rstShadow := rfl
@[simp] theorem State.start_nb : (s.start ph tl).nb = s.nb := rfl
@[simp] theorem State.start_resp : (s.start ph tl).resp = s.resp := rfl
@[simp] theorem State.start_log : (s.start ph tl).log = s.log := rfl
@[simp] theorem State.start_panel : (s.start ph tl).panel = s.panel := rfl
@[simp] theorem State.start_image : (s.start ph tl).image = s.image := rfl
@[simp] theorem State.start_host : (s.start ph tl).host = s.host := rfl
@[simp] theorem State.start_transport : (s.start ph tl).transport = s.transport := rfl
@[simp] theorem State.start_draws : (s.start ph tl).draws = s.draws := rfl
@[simp] theorem State.start_ir : (s.start ph tl).ir = s.ir := rfl

end

/-! ## issued -/

section
variable (s : State) (t : Txn) (o : TxnOutcome)

@[simp] theorem State.issued_params : (s.issued t o).params = s.params := rfl
@[simp] theorem State.issued_req : (s.issued t o).req = s.req := rfl
@[simp] theorem State.issued_wxs : (s.issued t o).wxs = s.wxs := rfl
@[simp] theorem State.issued_wys : (s.issued t o).wys = s.wys := rfl
@[simp] theorem State.issued_wxe : (s.issued t o).wxe = s.wxe := rfl
@[simp] theorem State.issued_wye : (s.issued t o).wye = s.wye := rfl
@[simp] theorem State.issued_phase : (s.issued t o).phase = s.phase := rfl
@[simp] theorem State.issued_sub : (s.issued t o).sub = s.sub := rfl
@[simp] theorem State.issued_tl : (s.issued t o).tl = s.tl := rfl
@[simp] theorem State.issued_seq : (s.issued t o).seq = s.seq := rfl
@[simp] theorem State.issued_initDone : (s.issued t o).initDone = s.initDone := rfl
@[simp] theorem State.issued_status : (s.issued t o).status = s.status := rfl
@[simp] theorem State.issued_dcShadow : (s.issued t o).dcShadow = nextDcShadow s.dcShadow t o := rfl
@[simp] theorem State.issued_rstShadow : (s.issued t o).rstShadow = nextRstShadow s.rstShadow t o := rfl
@[simp] theorem State.issued_nb : (s.issued t o).nb = s.nb := rfl
@[simp] theorem State.issued_resp : (s.issued t o).resp = s.resp := rfl
@[simp] theorem State.issued_log : (s.issued t o).log = s.log ++ [(t, o)] := rfl
@[simp] theorem State.issued_panel : (s.issued t o).panel = s.panel.observe s.params t o := rfl
@[simp] theorem State.issued_image : (s.issued t o).image = s.image := rfl
@[simp] theorem State.issued_host : (s.issued t o).host = s.host := rfl
@[simp] theorem State.issued_transport : (s.issued t o).transport = s.transport.tail := rfl
@[simp] theorem State.issued_draws : (s.issued t o).draws = s.draws := rfl
@[simp] theorem State.issued_ir : (s.issued t o).ir = s.ir := rfl

end

/-! ## respond -/

section
variable (s : State) (st : Status)

@[simp] theorem State.respond_params : (s.respond st).params = s.params := rfl
@[simp] theorem State.respond_req : (s.respond st).req = s.req := rfl
@[simp] theorem State.respond_wxs : (s.respond st).wxs = s.wxs := rfl
@[simp] theorem State.respond_wys : (s.respond st).wys = s.wys := rfl
@[simp] theorem State.respond_wxe : (s.respond st).wxe = s.wxe := rfl
@[simp] theorem State.respond_wye : (s.respond st).wye = s.wye := rfl
@[simp] theorem State.respond_phase : (s.respond st).phase = .idle := rfl
@[simp] theorem State.respond_sub : (s.respond st).sub = .none := rfl
@[simp] theorem State.respond_tl : (s.respond st).tl = [] := rfl
@[simp] theorem State.respond_seq : (s.respond st).seq = 0 := rfl
@[simp] theorem State.respond_initDone : (s.respond st).initDone = s.initDone := rfl
@[simp] theorem State.respond_status : (s.respond st).status = st := rfl
@[simp] theorem State.respond_dcShadow : (s.respond st).dcShadow = s.dcShadow := rfl
@[simp] theorem State.respond_rstShadow : (s.respond st).rstShadow = s.rstShadow := rfl
@[simp] theorem State.respond_nb : (s.respond st).nb = s.nb := rfl
@[simp] theorem State.respond_resp : (s.respond st).resp = some (respWord s.initDone st) := rfl
@[simp] theorem State.respond_log : (s.respond st).log = s.log := rfl
@[simp] theorem State.respond_panel : (s.respond st).panel = s.panel := rfl
@[simp] theorem State.respond_image : (s.respond st).image = s.image := rfl
@[simp] theorem State.respond_host : (s.respond st).host = s.host := rfl
@[simp] theorem State.respond_transport : (s.respond st).transport = s.transport := rfl
@[simp] theorem State.respond_draws : (s.respond st).draws = s.draws := rfl
@[simp] theorem State.respond_ir : (s.respond st).ir = s.ir := rfl

end

/-! ## raise -/

section
variable (s : State) (e : Status)

@[simp] theorem State.raise_params : (s.raise e).params = s.params := rfl
@[simp] theorem State.raise_req : (s.raise e).req = s.req := rfl
@[simp] theorem State.raise_wxs : (s.raise e).wxs = s.wxs := rfl
@[simp] theorem State.raise_wys : (s.raise e).wys = s.wys := rfl
@[simp] theorem State.raise_wxe : (s.raise e).wxe = s.wxe := rfl
@[simp] theorem State.raise_wye : (s.raise e).wye = s.wye := rfl
@[simp] theorem State.raise_phase : (s.raise e).phase = .idle := rfl
@[simp] theorem State.raise_sub : (s.raise e).sub = .none := rfl
@[simp] theorem State.raise_tl : (s.raise e).tl = [] := rfl
@[simp] theorem State.raise_seq : (s.raise e).seq = 0 := rfl
@[simp] theorem State.raise_initDone : (s.raise e).initDone = if s.phase = .init then false else s.initDone := rfl
@[simp] theorem State.raise_status : (s.raise e).status = e := rfl
@[simp] theorem State.raise_dcShadow : (s.raise e).dcShadow = s.dcShadow := rfl
@[simp] theorem State.raise_rstShadow : (s.raise e).rstShadow = s.rstShadow := rfl
@[simp] theorem State.raise_nb : (s.raise e).nb = s.nb := rfl
@[simp] theorem State.raise_resp : (s.raise e).resp = some (respWord (if s.phase = .init then false else s.initDone) e) := rfl
@[simp] theorem State.raise_log : (s.raise e).log = s.log := rfl
@[simp] theorem State.raise_panel : (s.raise e).panel = s.panel := rfl
@[simp] theorem State.raise_image : (s.raise e).image = s.image := rfl
@[simp] theorem State.raise_host : (s.raise e).host = s.host := rfl
@[simp] theorem State.raise_transport : (s.raise e).transport = s.transport := rfl
@[simp] theorem State.raise_draws : (s.raise e).draws = s.draws := rfl
@[simp] theorem State.raise_ir : (s.raise e).ir = s.ir := rfl

end

/-! ## take -/

section
variable (s : State) (r : HostRequest) (rest : List HostRequest)

@[simp] theorem State.take_params : (s.take r rest).params = s.params := rfl
@[simp] theorem State.take_req : (s.take r rest).req = s.req := rfl
@[simp] theorem State.take_wxs : (s.take r rest).wxs = s.wxs := rfl
@[simp] theorem State.take_wys : (s.take r rest).wys = s.wys := rfl
@[simp] theorem State.take_wxe : (s.take r rest).wxe = s.wxe := rfl
@[simp] theorem State.take_wye : (s.take r rest).wye = s.wye := rfl
@[simp] theorem State.take_phase : (s.take r rest).phase = s.phase := rfl
@[simp] theorem State.take_sub : (s.take r rest).sub = s.sub := rfl
@[simp] theorem State.take_tl : (s.take r rest).tl = s.tl := rfl
@[simp] theorem State.take_seq : (s.take r rest).seq = s.seq := rfl
@[simp] theorem State.take_initDone : (s.take r rest).initDone = s.initDone := rfl
@[simp] theorem State.take_status : (s.take r rest).status = s.status := rfl
@[simp] theorem State.take_dcShadow : (s.take r rest).dcShadow = s.dcShadow := rfl
@[simp] theorem State.take_rstShadow : (s.take r rest).rstShadow = s.rstShadow := rfl
@[simp] theorem State.take_nb : (s.take r rest).nb = s.nb := rfl
@[simp] theorem State.take_resp : (s.take r rest).resp = s.resp := rfl
@[simp] theorem State.take_log : (s.take r rest).log = s.log := rfl
@[simp] theorem State.take_panel : (s.take r rest).panel = s.panel := rfl
@[simp] theorem State.take_image : (s.take r rest).image = r.image.getD s.image := rfl
@[simp] theorem State.take_host : (s.take r rest).host = rest := rfl
@[simp] theorem State.take_transport : (s.take r rest).transport = s.transport := rfl
@[simp] theorem State.take_draws : (s.take r rest).draws = s.draws := rfl
@[simp] theorem State.take_ir : (s.take r rest).ir = s.ir := rfl

end

/-! ## moveTo -/

section
variable (s : State) (n : Nat)

@[simp] theorem State.moveTo_params : (s.moveTo n).params = s.params := rfl
@[simp] theorem State.moveTo_req : (s.moveTo n).req = s.req := rfl
@[simp] theorem State.moveTo_wxs : (s.moveTo n).wxs = s.wxs := rfl
@[simp] theorem State.moveTo_wys : (s.moveTo n).wys = s.wys := rfl
@[simp] theorem State.moveTo_wxe : (s.moveTo n).wxe = s.wxe := rfl
@[simp] theorem State.moveTo_wye : (s.moveTo n).wye = s.wye := rfl
@[simp] theorem State.moveTo_phase : (s.moveTo n).phase = s.phase := rfl
@[simp] theorem State.moveTo_sub : (s.moveTo n).sub = subAt s.phase n := rfl
@[simp] theorem State.moveTo_tl : (s.moveTo n).tl = s.tl := rfl
@[simp] theorem State.moveTo_seq : (s.moveTo n).seq = n := rfl
@[simp] theorem State.moveTo_initDone : (s.moveTo n).initDone = s.initDone := rfl
@[simp] theorem State.moveTo_status : (s.moveTo n).status = s.status := rfl
@[simp] theorem State.moveTo_dcShadow : (s.moveTo n).dcShadow = s.dcShadow := rfl
@[simp] theorem State.moveTo_rstShadow : (s.moveTo n).rstShadow = s.rstShadow := rfl
@[simp] theorem State.moveTo_nb : (s.moveTo n).nb = s.nb := rfl
@[simp] theorem State.moveTo_resp : (s.moveTo n).resp = s.resp := rfl
@[simp] theorem State.moveTo_log : (s.moveTo n).log = s.log := rfl
@[simp] theorem State.moveTo_panel : (s.moveTo n).panel = s.panel := rfl
@[simp] theorem State.moveTo_image : (s.moveTo n).image = s.image := rfl
@[simp] theorem State.moveTo_host : (s.moveTo n).host = s.host := rfl
@[simp] theorem State.moveTo_transport : (s.moveTo n).transport = s.transport := rfl
@[simp] theorem State.moveTo_draws : (s.moveTo n).draws = s.draws := rfl
@[simp] theorem State.moveTo_ir : (s.moveTo n).ir = s.ir := rfl

end

/-! ## mark -/

section
variable (s : State) (c : Sub)

@[simp] theorem State.mark_params : (s.mark c).params = s.params := rfl
@[simp] theorem State.mark_req : (s.mark c).req = s.req := rfl
@[simp] theorem State.mark_wxs : (s.mark c).wxs = s.wxs := rfl
@[simp] theorem State.mark_wys : (s.mark c).wys = s.wys := rfl
@[simp] theorem State.mark_wxe : (s.mark c).wxe = s.wxe := rfl
@[simp] theorem State.mark_wye : (s.mark c).wye = s.wye := rfl
@[simp] theorem State.mark_phase : (s.mark c).phase = s.phase := rfl
@[simp] theorem State.mark_sub : (s.mark c).sub = c := rfl
@[simp] theorem State.mark_tl : (s.mark c).tl = s.tl := rfl
@[simp] theorem State.mark_seq : (s.mark c).seq = s.seq := rfl
@[simp] theorem State.mark_initDone : (s.mark c).initDone = s.initDone := rfl
@[simp] theorem State.mark_status : (s.mark c).status = s.status := rfl
@[simp] theorem State.mark_dcShadow : (s.mark c).dcShadow = s.dcShadow := rfl
@[simp] theorem State.mark_rstShadow : (s.mark c).rstShadow = s.rstShadow := rfl
@[simp] theorem State.mark_nb : (s.mark c).nb = s.nb := rfl
@[simp] theorem State.mark_resp : (s.mark c).resp = s.resp := rfl
@[simp] theorem State.mark_log : (s.mark c).log = s.log := rfl
@[simp] theorem State.mark_panel : (s.mark c).panel = s.panel := rfl
@[simp] theorem State.mark_image : (s.mark c).image = s.image := rfl
@[simp] theorem State.mark_host : (s.mark c).host = s.host := rfl
@[simp] theorem State.mark_transport : (s.mark c).transport = s.transport := rfl
@[simp] theorem State.mark_draws : (s.mark c).draws = s.draws := rfl
@[simp] theorem State.mark_ir : (s.mark c).ir = s.ir := rfl

end

end Sys2Proof.Machine
end

