-- ==== Sys2Proof/Laws/Ops.lean ====
section
/-! SUPPORT. What each shared operation can do, said once: issuing a list of transactions, the accesses to NB, the
step of a running request, and the step of an idle one. -/

namespace Sys2Proof.Machine

/-! ## Issuing a list -/

@[simp] theorem State.issuedAll_nil (s : State) : s.issuedAll [] = s := rfl

@[simp] theorem State.issuedAll_cons (s : State) (t : Txn) (ts : List Txn) :
    s.issuedAll (t :: ts) = (s.issued t .ok).issuedAll ts := rfl

theorem State.issuedAll_append (s : State) (ts us : List Txn) :
    s.issuedAll (ts ++ us) = (s.issuedAll ts).issuedAll us := by
  simp [State.issuedAll, List.foldl_append]

@[simp] theorem okEntries_nil : okEntries [] = [] := rfl

@[simp] theorem okEntries_cons (t : Txn) (ts : List Txn) : okEntries (t :: ts) = (t, .ok) :: okEntries ts := rfl

@[simp] theorem okEntries_append (ts us : List Txn) : okEntries (ts ++ us) = okEntries ts ++ okEntries us := by
  simp [okEntries]

@[simp] theorem length_okEntries (ts : List Txn) : (okEntries ts).length = ts.length := by simp [okEntries]

/-- Issuing a list with every answer OK writes LOG, the shadows, the observer and the transport's answers, and
nothing else. -/
theorem State.issuedAll_eq (s : State) (ts : List Txn) :
    s.issuedAll ts =
      { s with
        transport := s.transport.drop ts.length
        log := s.log ++ okEntries ts
        dcShadow := ts.foldl (fun d t => nextDcShadow d t .ok) s.dcShadow
        rstShadow := ts.foldl (fun r t => nextRstShadow r t .ok) s.rstShadow
        panel := s.panel.observeAll s.params (okEntries ts) } := by
  induction ts generalizing s with
  | nil => simp [Panel.observeAll]
  | cons t ts ih =>
    rw [State.issuedAll_cons, ih]
    simp [Panel.observeAll, State.issued, ← List.drop_one, Nat.add_comm]

theorem State.emitAll_ok (ts : List Txn) (s : State) (h : State.AnswersOk ts s) :
    State.emitAll ts s = s.issuedAll ts := by
  induction ts generalizing s with
  | nil => rfl
  | cons t ts ih => simp [State.emitAll, h.1, ih _ h.2]

theorem State.emitAll_fail (before after : List Txn) (t : Txn) (s : State) (h : State.FailsAfter before t s) :
    State.emitAll (before ++ t :: after) s = ((s.issuedAll before).issued t .fail).raise .transportFailure := by
  induction before generalizing s with
  | nil =>
    have : s.outcome t = .fail := h.2
    simp [State.emitAll, this]
  | cons b bs ih =>
    have : s.outcome b = .ok := h.1.1
    simp only [List.cons_append, State.emitAll, this, State.issuedAll_cons]
    exact ih _ ⟨h.1.2, h.2⟩

/-- A list of transactions is answered OK to its end, or one of them is the first to fail. -/
theorem State.answers_cases (ts : List Txn) (s : State) :
    State.AnswersOk ts s ∨ ∃ before t after, ts = before ++ t :: after ∧ State.FailsAfter before t s := by
  induction ts generalizing s with
  | nil => exact .inl trivial
  | cons t ts ih =>
    cases h : s.outcome t with
    | fail => exact .inr ⟨[], t, ts, rfl, trivial, h⟩
    | ok =>
      rcases ih (s.issued t .ok) with hok | ⟨b, u, a, rfl, hf⟩
      · exact .inl ⟨h, hok⟩
      · exact .inr ⟨t :: b, u, a, rfl, ⟨h, hf.1⟩, hf.2⟩

/-- Answers depend on the transport and LOG alone. -/
theorem State.answersOk_congr (ts : List Txn) (s s' : State) (ht : s.transport = s'.transport) (hl : s.log = s'.log) :
    State.AnswersOk ts s ↔ State.AnswersOk ts s' := by
  induction ts generalizing s s' with
  | nil => exact Iff.rfl
  | cons t ts ih =>
    simp only [State.AnswersOk, State.outcome, ht, hl]
    exact and_congr Iff.rfl (ih _ _ (by simp [ht]) (by simp [hl]))

@[simp] theorem State.outcome_mark (s : State) (c : Sub) (t : Txn) : (s.mark c).outcome t = s.outcome t := rfl

@[simp] theorem State.outcome_moveTo (s : State) (n : Nat) (t : Txn) : (s.moveTo n).outcome t = s.outcome t := rfl

@[simp] theorem State.answersOk_mark (s : State) (c : Sub) (ts : List Txn) :
    State.AnswersOk ts (s.mark c) ↔ State.AnswersOk ts s :=
  State.answersOk_congr ts _ _ rfl rfl

@[simp] theorem State.answersOk_moveTo (s : State) (n : Nat) (ts : List Txn) :
    State.AnswersOk ts (s.moveTo n) ↔ State.AnswersOk ts s :=
  State.answersOk_congr ts _ _ rfl rfl

/-- Where SUB stands does not matter to what is issued. -/
theorem State.issuedAll_mark (s : State) (c : Sub) (ts : List Txn) :
    (s.mark c).issuedAll ts = (s.issuedAll ts).mark c := by
  rw [State.issuedAll_eq, State.issuedAll_eq]; rfl

/-- Where SEQ stands does not matter to what is issued. -/
theorem State.issuedAll_moveTo (s : State) (n : Nat) (ts : List Txn) :
    (s.moveTo n).issuedAll ts = (s.issuedAll ts).moveTo n := by
  rw [State.issuedAll_eq, State.issuedAll_eq]; rfl

theorem State.failsAfter_mark (s : State) (c : Sub) (before : List Txn) (t : Txn) :
    State.FailsAfter before t (s.mark c) ↔ State.FailsAfter before t s := by
  simp [State.FailsAfter, State.issuedAll_mark]

theorem State.failsAfter_moveTo (s : State) (n : Nat) (before : List Txn) (t : Txn) :
    State.FailsAfter before t (s.moveTo n) ↔ State.FailsAfter before t s := by
  simp [State.FailsAfter, State.issuedAll_moveTo]

theorem State.outcome_congr (t : Txn) (s s' : State) (ht : s.transport = s'.transport) (hl : s.log = s'.log) :
    s.outcome t = s'.outcome t := by
  simp only [State.outcome, ht, hl]

theorem State.answersOk_append (ts us : List Txn) (s : State) :
    State.AnswersOk (ts ++ us) s ↔ State.AnswersOk ts s ∧ State.AnswersOk us (s.issuedAll ts) := by
  induction ts generalizing s with
  | nil => simp [State.AnswersOk]
  | cons t ts ih => simp [State.AnswersOk, ih, and_assoc]

/-- Listed OK answers are OK answers. -/
theorem State.answersOk_of_listed (ts : List Txn) (s : State) (rest : List TxnOutcome)
    (h : s.transport = List.replicate ts.length .ok ++ rest) : State.AnswersOk ts s := by
  induction ts generalizing s with
  | nil => trivial
  | cons t ts ih =>
    rw [List.length_cons, List.replicate_succ, List.cons_append] at h
    refine ⟨by simp [State.outcome, h], ih _ ?_⟩
    simp [h]

/-! ## The native buffer -/

theorem State.nbRead_all (s : State) (k : List Byte → Result) :
    s.nbRead 0 Config.nbSize k = k (s.nb.readRun 0 Config.nbSize) := by
  simp [State.nbRead]

theorem State.nbWrite_all (s : State) (f : Nat → Byte) :
    s.nbWrite 0 Config.nbSize f = .next { s with nb := s.nb.writeRun 0 Config.nbSize f } := by
  simp [State.nbWrite]

theorem State.encodeFrame_eq (s : State) :
    s.encodeFrame = .next { s.mark .encode with
      draws := s.draws + 1, nb := s.nb.writeRun 0 Config.nbSize (frameByte s.image s.draws) } := by
  rw [State.encodeFrame, State.nbWrite_all]; rfl

theorem State.fillBuffer_eq (s : State) :
    s.fillBuffer = .next { s.mark .fill with nb := s.nb.writeRun 0 Config.nbSize fun _ => fillByte } := by
  rw [State.fillBuffer, State.nbWrite_all]; rfl

/-! ## Steps -/

theorem step_running (s : State) (t : Txn) (hi : s.ir = none) (hp : s.phase ≠ .idle) (ht : s.tl[s.seq]? = some t) :
    step s = .next (s.issueNext t) := by
  simp [step, hi, hp, State.stepRunning, ht]

/-- What the execution step leaves: the transaction is in LOG, and either SEQ moves on, or the request completes, or
it ends with TransportFailure. -/
theorem State.issueNext_cases (s : State) (t : Txn) :
    (s.outcome t = .ok ∧ s.seq + 1 ≠ s.tl.length ∧
      s.issueNext t = (s.issued t .ok).moveTo (s.seq + 1)) ∨
    (s.outcome t = .ok ∧ s.seq + 1 = s.tl.length ∧
      s.issueNext t = ((s.issued t .ok).moveTo (s.seq + 1)).complete) ∨
    (s.outcome t = .fail ∧ s.issueNext t = (s.issued t .fail).raise .transportFailure) := by
  cases h : s.outcome t with
  | fail => simp [State.issueNext, h]
  | ok =>
    by_cases hl : s.seq + 1 = s.tl.length
    · right; left; simp [State.issueNext, h, State.advance, hl]
    · left; simp [State.issueNext, h, State.advance, hl]

/-- Completion in one form for every phase. -/
theorem State.complete_eq (s : State) :
    s.complete = State.respond { s with
      initDone := if s.phase = .init then true else s.initDone
      panel := if s.phase = .init then { s.panel with configured := true } else s.panel } .ok := by
  unfold State.complete
  cases h : s.phase <;> simp [State.respond]

end Sys2Proof.Machine
end

