-- ==== Sys2Proof/Laws/Panel.lean ====
section
/-! SUPPORT. What the observer can do: it never becomes configured by an entry, it keeps its pixels canonical, and an
unconfigured observer knows no pixel. -/

namespace Sys2Proof.Machine

@[simp] theorem Panel.forget_gram (p : Panel) : p.forget.gram = [] := rfl
@[simp] theorem Panel.forget_configured (p : Panel) : p.forget.configured = p.configured := rfl
@[simp] theorem Panel.forget_armed (p : Panel) : p.forget.armed = p.armed := rfl
@[simp] theorem Panel.forget_col (p : Panel) : p.forget.col = p.col := rfl
@[simp] theorem Panel.forget_row (p : Panel) : p.forget.row = p.row := rfl
@[simp] theorem Panel.forget_expect (p : Panel) : p.forget.expect = p.expect := rfl

@[simp] theorem Panel.plot_configured (p : Panel) (a : Armed) (px : Pixel) :
    (p.plot a px).configured = p.configured := by
  simp only [Panel.plot]; split <;> rfl

@[simp] theorem Panel.byte_configured (p : Panel) (b : Byte) : (p.byte b).configured = p.configured := by
  unfold Panel.byte
  split
  · rfl
  · split <;> simp

@[simp] theorem Panel.foldl_byte_configured (bs : List Byte) (p : Panel) :
    (bs.foldl Panel.byte p).configured = p.configured := by
  induction bs generalizing p with
  | nil => rfl
  | cons b bs ih => simp [ih]

@[simp] theorem Panel.pixelData_configured (p : Panel) (bs : List Byte) :
    (p.pixelData bs).configured = p.configured := by
  unfold Panel.pixelData; split <;> simp

@[simp] theorem Panel.dataBytes_configured (p : Panel) (bs : List Byte) :
    (p.dataBytes bs).configured = p.configured := by
  unfold Panel.dataBytes; split <;> simp

@[simp] theorem Panel.arm_configured (p : Panel) : p.arm.configured = p.configured := by
  unfold Panel.arm; split <;> rfl

@[simp] theorem Panel.command_configured (c : Params) (p : Panel) (b : Byte) :
    (p.command c b).configured = p.configured := by
  unfold Panel.command
  split
  · rfl
  · split
    · rfl
    · split <;> simp

/-- No entry makes the observer configured. -/
theorem Panel.observe_configured (c : Params) (p : Panel) (t : Txn) (o : TxnOutcome)
    (h : (p.observe c t o).configured = true) : p.configured = true := by
  unfold Panel.observe at h
  split at h <;> simp_all [Panel.unknown]

@[simp] theorem Panel.byte_expect (p : Panel) (b : Byte) : (p.byte b).expect = p.expect := by
  unfold Panel.byte
  split
  · rfl
  · split
    · rfl
    · simp only [Panel.plot]; split <;> rfl

@[simp] theorem Panel.foldl_byte_expect (bs : List Byte) (p : Panel) : (bs.foldl Panel.byte p).expect = p.expect := by
  induction bs generalizing p with
  | nil => rfl
  | cons b bs ih => simp [ih]

/-- After any entry an armed observer awaits no parameters (40_controller_protocol.md R141). -/
theorem Panel.observe_armedAwaitsPixels (c : Params) (p : Panel) (t : Txn) (o : TxnOutcome) :
    (p.observe c t o).armed.isSome = true → (p.observe c t o).expect = .nothing := by
  have hd : ∀ bs, (p.pixelData bs).expect = .nothing := by
    intro bs
    unfold Panel.pixelData
    split
    · rfl
    · simp
  unfold Panel.observe
  split
  · exact fun _ => rfl
  · exact fun _ => rfl
  · exact fun _ => rfl
  · exact fun _ => rfl
  · exact fun _ => rfl
  · exact fun _ => rfl
  · unfold Panel.command
    split
    · intro ha; cases ha
    · split
      · intro ha; cases ha
      · split
        · unfold Panel.arm
          split <;> exact fun _ => rfl
        · exact fun _ => rfl
  · intro _
    unfold Panel.dataBytes
    split
    · rfl
    · rfl
    all_goals exact hd _

/-- The observer's pixels in canonical form. -/
def Panel.Canonical (p : Panel) : Prop :=
  Cells.rising 0 p.gram = true ∧ Cells.below (Config.width * Config.height) p.gram = true

/-- The observer knows a pixel only when it is configured. -/
def Panel.KnowsOnlyConfigured (p : Panel) : Prop := p.configured = false → p.gram = []

theorem Panel.canonical_of_nil (p : Panel) (h : p.gram = []) : p.Canonical := by
  simp [Panel.Canonical, h, Cells.rising, Cells.below]

theorem Panel.canonical_plot (p : Panel) (a : Armed) (px : Pixel) (h : p.Canonical) : (p.plot a px).Canonical := by
  simp only [Panel.plot]
  split
  · next hc =>
    obtain ⟨-, -, hx, hy⟩ := hc
    refine ⟨Cells.rising_put _ _ _ _ h.1 (Nat.zero_le _), Cells.below_put _ _ _ _ h.2 ?_⟩
    simp only [gramPlace, Config.width, Config.height] at hx hy ⊢
    omega
  · exact Panel.canonical_of_nil _ rfl

theorem Panel.canonical_byte (p : Panel) (b : Byte) (h : p.Canonical) : (p.byte b).Canonical := by
  unfold Panel.byte
  split
  · exact Panel.canonical_of_nil _ rfl
  · split
    · exact h
    · exact Panel.canonical_plot p _ _ h

theorem Panel.canonical_foldl_byte (bs : List Byte) (p : Panel) (h : p.Canonical) :
    (bs.foldl Panel.byte p).Canonical := by
  induction bs generalizing p with
  | nil => exact h
  | cons b bs ih => exact ih _ (Panel.canonical_byte p b h)

theorem Panel.canonical_pixelData (p : Panel) (bs : List Byte) (h : p.Canonical) : (p.pixelData bs).Canonical := by
  unfold Panel.pixelData
  split
  · exact Panel.canonical_of_nil _ rfl
  · exact Panel.canonical_foldl_byte bs _ h

theorem Panel.canonical_dataBytes (p : Panel) (bs : List Byte) (h : p.Canonical) : (p.dataBytes bs).Canonical := by
  unfold Panel.dataBytes
  split
  · exact h
  · exact h
  all_goals exact Panel.canonical_pixelData p bs h

theorem Panel.canonical_command (c : Params) (p : Panel) (b : Byte) (h : p.Canonical) :
    (p.command c b).Canonical := by
  unfold Panel.command
  split
  · exact h
  · split
    · exact h
    · split
      · unfold Panel.arm
        split
        · exact h
        · exact Panel.canonical_of_nil _ rfl
      · exact Panel.canonical_of_nil _ rfl

/-- Every entry keeps the observer's pixels canonical. -/
theorem Panel.canonical_observe (c : Params) (p : Panel) (t : Txn) (o : TxnOutcome) (h : p.Canonical) :
    (p.observe c t o).Canonical := by
  unfold Panel.observe
  split
  · exact Panel.canonical_of_nil _ rfl
  · exact Panel.canonical_of_nil _ rfl
  · exact h
  · exact h
  · exact Panel.canonical_of_nil _ rfl
  · exact h
  · exact Panel.canonical_command c p _ h
  · exact Panel.canonical_dataBytes p _ h

theorem Panel.knows_plot (p : Panel) (a : Armed) (px : Pixel) :
    (p.plot a px).KnowsOnlyConfigured := by
  intro hc
  rw [Panel.plot_configured] at hc
  simp only [Panel.plot, hc]
  rfl

theorem Panel.knows_byte (p : Panel) (b : Byte) (h : p.KnowsOnlyConfigured) : (p.byte b).KnowsOnlyConfigured := by
  unfold Panel.byte
  split
  · exact fun _ => rfl
  · split
    · exact h
    · exact Panel.knows_plot p _ _

theorem Panel.knows_foldl_byte (bs : List Byte) (p : Panel) (h : p.KnowsOnlyConfigured) :
    (bs.foldl Panel.byte p).KnowsOnlyConfigured := by
  induction bs generalizing p with
  | nil => exact h
  | cons b bs ih => exact ih _ (Panel.knows_byte p b h)

theorem Panel.knows_dataBytes (p : Panel) (bs : List Byte) (h : p.KnowsOnlyConfigured) :
    (p.dataBytes bs).KnowsOnlyConfigured := by
  have hd : (p.pixelData bs).KnowsOnlyConfigured := by
    unfold Panel.pixelData
    split
    · exact fun _ => rfl
    · exact Panel.knows_foldl_byte bs _ h
  unfold Panel.dataBytes
  split
  · exact h
  · exact h
  all_goals exact hd

/-- Every entry keeps an unconfigured observer without pixels. -/
theorem Panel.knows_observe (c : Params) (p : Panel) (t : Txn) (o : TxnOutcome) (h : p.KnowsOnlyConfigured) :
    (p.observe c t o).KnowsOnlyConfigured := by
  unfold Panel.observe
  split
  · exact fun _ => rfl
  · exact fun _ => rfl
  · exact h
  · exact h
  · exact fun _ => rfl
  · exact h
  · unfold Panel.command
    split
    · exact h
    · split
      · exact h
      · split
        · unfold Panel.arm
          split
          · exact h
          · exact fun _ => rfl
        · exact fun _ => rfl
  · exact Panel.knows_dataBytes p _ h

/-! ## Bytes in an armed window -/

theorem Panel.byte_armed (p : Panel) (b : Byte) (h : p.armed.isSome = true) : (p.byte b).armed.isSome = true := by
  unfold Panel.byte
  split
  · next hn => simp [hn] at h
  · split <;> rfl

theorem Panel.foldl_byte_armed (bs : List Byte) (p : Panel) (h : p.armed.isSome = true) :
    (bs.foldl Panel.byte p).armed.isSome = true := by
  induction bs generalizing p with
  | nil => exact h
  | cons b bs ih => exact ih _ (Panel.byte_armed p b h)

/-- DATA transactions to an armed observer that expects no parameters are their bytes in order: how the bytes are cut
into DATA does not matter (20_memory.md R59, 41_frame_transfer.md R164). -/
theorem Panel.observeAll_data (c : Params) (bss : List (List Byte)) (p : Panel) (ha : p.armed.isSome = true)
    (he : p.expect = .nothing) :
    p.observeAll c (okEntries (bss.map .data)) = bss.flatten.foldl Panel.byte p := by
  induction bss generalizing p with
  | nil => rfl
  | cons bs bss ih =>
    obtain ⟨a, ha'⟩ := Option.isSome_iff_exists.mp ha
    have h1 : p.observe c (.data bs) .ok = bs.foldl Panel.byte p := by
      have hp : ({ p with expect := .nothing } : Panel) = p := by cases p; simp_all
      have hd : p.pixelData bs = bs.foldl Panel.byte { p with expect := .nothing } := by
        unfold Panel.pixelData; rw [ha']
      rw [hp] at hd
      simp [Panel.observe, Panel.dataBytes, he, hd]
    simp only [Panel.observeAll, List.map_cons, okEntries_cons, List.foldl_cons, h1, List.flatten_cons,
      List.foldl_append] at ih ⊢
    exact ih _ (Panel.foldl_byte_armed bs p ha) (by simp [he])

/-- One pair of bytes in an armed window of the panel: the `j`-th pixel, most significant byte first, or every pixel
UNKNOWN where the window is full (40_controller_protocol.md R142, R143). -/
theorem Panel.byte_byte_window (x0 y0 w h j : Nat) (hw : 0 < w) (hh : 0 < h) (hx : x0 + w ≤ 240) (hy : y0 + h ≤ 240)
    (p : Panel) (hc : p.configured = true) (ha : p.armed = some ⟨x0, y0, x0 + w - 1, y0 + h - 1, j, none⟩)
    (a b : Byte) :
    (p.byte a).byte b = { p with
      gram := if j < w * h then Cells.put p.gram (gramPlace (x0 + j % w) (y0 + j / w)) (a ++ b) else []
      armed := some ⟨x0, y0, x0 + w - 1, y0 + h - 1, j + 1, none⟩ } := by
  have e1 : x0 + w - 1 + 1 - x0 = w := by omega
  have e2 : y0 + h - 1 + 1 - y0 = h := by omega
  have h1 : p.byte a = { p with armed := some ⟨x0, y0, x0 + w - 1, y0 + h - 1, j, some a⟩ } := by
    simp [Panel.byte, ha]
  rw [h1]
  simp only [Panel.byte, Panel.plot, Config.width, Config.height, hc, e1, e2, true_and]
  by_cases hj : j < w * h
  · have := Nat.mod_lt j hw
    have := Nat.div_lt_of_lt_mul hj
    rw [if_pos (by refine ⟨hj, ?_, ?_⟩ <;> omega), if_pos hj]
  · rw [if_neg (by rintro ⟨hj', _⟩; exact hj hj'), if_neg hj]; rfl

/-- Two pixels of a window on the panel have different places. -/
theorem gramPlace_window_inj (x0 y0 w a b : Nat) (hw : 0 < w) (hx : x0 + w ≤ 240)
    (h : gramPlace (x0 + a % w) (y0 + a / w) = gramPlace (x0 + b % w) (y0 + b / w)) : a = b := by
  have := Nat.mod_lt a hw
  have := Nat.mod_lt b hw
  simp only [gramPlace, Config.width] at h
  have hm : a % w = b % w ∧ a / w = b / w := by omega
  rw [← Nat.div_add_mod a w, ← Nat.div_add_mod b w, hm.1, hm.2]

/-- Everything the bytes `l` can do to an observer armed for a window of the panel at its `j`-th pixel, with no byte
pending (40_controller_protocol.md R142, R143): the counter and the pending byte; while the window holds them, each
pair at its place and no other pixel changed; past its end, every pixel UNKNOWN. -/
theorem Panel.foldl_byte_window (x0 y0 w h : Nat) (hw : 0 < w) (hh : 0 < h) (hx : x0 + w ≤ 240) (hy : y0 + h ≤ 240)
    (n j : Nat) (l : List Byte) (hn : n = l.length / 2) (p : Panel) (hc : p.configured = true)
    (ha : p.armed = some ⟨x0, y0, x0 + w - 1, y0 + h - 1, j, none⟩) (hr : Cells.rising 0 p.gram = true) :
    (l.foldl Panel.byte p).armed = some ⟨x0, y0, x0 + w - 1, y0 + h - 1, j + n, l[2 * n]?⟩ ∧
    (j + n ≤ w * h →
      (∀ k a b, l[2 * k]? = some a → l[2 * k + 1]? = some b →
        Cells.get? (l.foldl Panel.byte p).gram (gramPlace (x0 + (j + k) % w) (y0 + (j + k) / w)) = some (a ++ b)) ∧
      ∀ q, (∀ k, k < n → q ≠ gramPlace (x0 + (j + k) % w) (y0 + (j + k) / w)) →
        Cells.get? (l.foldl Panel.byte p).gram q = Cells.get? p.gram q) ∧
    (1 ≤ n → w * h < j + n → (l.foldl Panel.byte p).gram = []) ∧
    (w * h ≤ j → p.gram = [] → (l.foldl Panel.byte p).gram = []) := by
  induction n generalizing l p j with
  | zero =>
    match l, hn with
    | [], _ => simp [ha]
    | [a], _ =>
      have h1 : p.byte a = { p with armed := some ⟨x0, y0, x0 + w - 1, y0 + h - 1, j, some a⟩ } := by
        simp [Panel.byte, ha]
      simp [h1]
    | a :: b :: l, hn => simp only [List.length_cons] at hn; omega
  | succ n ih =>
    match l, hn with
    | [], hn => simp at hn
    | [a], hn => simp at hn
    | a :: b :: l, hn =>
      have hp := Panel.byte_byte_window x0 y0 w h j hw hh hx hy p hc ha a b
      simp only [List.foldl_cons]
      generalize hq : (p.byte a).byte b = q at hp
      have hqr : Cells.rising 0 q.gram = true := by
        rw [hp]; dsimp only; split
        · exact Cells.rising_put _ _ _ _ hr (by omega)
        · rfl
      obtain ⟨i1, i2, i3, i4⟩ := ih (j + 1) l (by simp at hn; omega) q (by rw [hp]; exact hc) (by rw [hp]) hqr
      have e : ∀ k, 2 * (k + 1) = 2 * k + 1 + 1 := fun k => by omega
      refine ⟨by rw [i1, e]; simp; omega, fun hj => ?_, fun _ hj => ?_, fun hj hg => ?_⟩
      · have hg : q.gram = Cells.put p.gram (gramPlace (x0 + j % w) (y0 + j / w)) (a ++ b) := by
          rw [hp]; dsimp only; rw [if_pos (by omega)]
        obtain ⟨k1, k2⟩ := i2 (by omega)
        refine ⟨fun k u v h1 h2 => ?_, fun pl hpl => ?_⟩
        · rcases k with _ | k
          · simp at h1 h2; subst h1; subst h2
            rw [k2 _ ?_, hg, Cells.get?_put _ _ _ _ 0 hr]
            · simp
            · intro k _ hk
              have := gramPlace_window_inj x0 y0 w _ _ hw hx hk
              omega
          · rw [e] at h1 h2; simp at h1 h2
            have := k1 k u v h1 h2
            rwa [show j + 1 + k = j + (k + 1) by omega] at this
        · rw [k2 pl ?_, hg, Cells.get?_put _ _ _ _ 0 hr, if_neg (by simpa using hpl 0 (by omega))]
          intro k hk
          have := hpl (k + 1) (by omega)
          rwa [show j + (k + 1) = j + 1 + k by omega] at this
      · by_cases hjw : j < w * h
        · exact i3 (by omega) (by omega)
        · exact i4 (by omega) (by rw [hp]; dsimp only; rw [if_neg hjw])
      · exact i4 (by omega) (by rw [hp]; dsimp only; rw [if_neg (by omega)])

/-- Pairs of bytes of the buffer sent to an observer armed for the full panel land at the next places, in order, and
no other pixel changes (40_controller_protocol.md R142). -/
theorem Panel.foldl_byte_readRun (m : Memory) (n j : Nat) (p : Panel) (hc : p.configured = true)
    (ha : p.armed = some ⟨0, 0, 239, 239, j, none⟩) (hr : Cells.rising 0 p.gram = true) (hj : j + n ≤ 57600) :
    ((m.readRun (2 * j) (2 * n)).foldl Panel.byte p).armed = some ⟨0, 0, 239, 239, j + n, none⟩ ∧
    ∀ k, Cells.get? ((m.readRun (2 * j) (2 * n)).foldl Panel.byte p).gram k =
      if j ≤ k ∧ k < j + n then some (m.read (2 * k) ++ m.read (2 * k + 1)) else Cells.get? p.gram k := by
  have hl : (m.readRun (2 * j) (2 * n)).length = 2 * n := Memory.length_readRun _ _ _
  have hg : ∀ i, i < 2 * n → (m.readRun (2 * j) (2 * n))[i]? = some (m.read (2 * j + i)) := fun i hi => by
    rw [List.getElem?_eq_getElem (by omega), Memory.getElem_readRun]
  have hpl : ∀ k, gramPlace (0 + (j + k) % 240) (0 + (j + k) / 240) = j + k := fun k => by
    simp only [gramPlace, Config.width]; omega
  obtain ⟨h1, h2, -⟩ := Panel.foldl_byte_window 0 0 240 240 (by decide) (by decide) (by decide) (by decide) n j
    (m.readRun (2 * j) (2 * n)) (by omega) p hc ha hr
  obtain ⟨h2, h3⟩ := h2 (by omega)
  refine ⟨by rw [h1, List.getElem?_eq_none (by omega)], fun k => ?_⟩
  split
  · next hk =>
    have := h2 (k - j) _ _ (hg _ (by omega)) (hg _ (by omega))
    rwa [hpl, show j + (k - j) = k by omega, show 2 * j + 2 * (k - j) = 2 * k by omega,
      show 2 * j + (2 * (k - j) + 1) = 2 * k + 1 by omega] at this
  · next hk => exact h3 k fun i hi => by rw [hpl]; omega

end Sys2Proof.Machine
end

