-- ==== Sys2Proof/Laws/PerInstr.lean ====
section
/-! SUPPORT. Facts of every instruction, one lemma per constructor. RowFormat: the encoder puts each instruction in
the format of its row of the opcode table (30_encoding.md R103). -/

namespace Sys2Proof.Laws.RowFormat

/-- A host request is a word whose OP is one of the four codes of 30_encoding.md R81; a sub-operation is one of the
six SUB codes of 10_state.md R26; a panel command starts with its CMD and has at most one DATA and one SLEEP after it,
the DATA not empty (30_encoding.md R92, R96). -/
def Statement (i : Instr) : Prop :=
  ∀ p : Params, match encode p i with
    | .request w => 1 ≤ (opField w).toNat ∧ (opField w).toNat ≤ 4
    | .subop c => c.toNat = 4 ∨ 8 ≤ c.toNat ∧ c.toNat ≤ 12
    | .frame ts => ∃ (b : Byte) (ps : List Byte) (d : Option Nat),
        ts = .cmd b :: ((if 0 < ps.length then [.data ps] else []) ++ sleepOf d)

theorem init : Statement .init :=
  fun _ => (by decide : 1 ≤ (opField 0x0000000000000001#64).toNat ∧ (opField 0x0000000000000001#64).toNat ≤ 4)
theorem render : Statement .render :=
  fun _ => (by decide : 1 ≤ (opField 0x0000000000000002#64).toNat ∧ (opField 0x0000000000000002#64).toNat ≤ 4)
theorem clear : Statement .clear :=
  fun _ => (by decide : 1 ≤ (opField 0x0000000000000003#64).toNat ∧ (opField 0x0000000000000003#64).toNat ≤ 4)

theorem setwindow (xs ys xe ye : Coord) : Statement (.setwindow xs ys xe ye) := by
  intro p
  have h : opField (setwindowWord xs ys xe ye) = 4#4 := by
    apply BitVec.eq_of_getLsbD_eq
    intro i hi
    simp only [opField, reqField, setwindowWord, BitVec.getLsbD_extractLsb', BitVec.getLsbD_append]
    simp [hi]
  show 1 ≤ (opField (setwindowWord xs ys xe ye)).toNat ∧ (opField (setwindowWord xs ys xe ye)).toNat ≤ 4
  rw [h]
  decide

theorem window : Statement .window :=
  fun _ => (by decide : (0x4#4).toNat = 4 ∨ 8 ≤ (0x4#4).toNat ∧ (0x4#4).toNat ≤ 12)
theorem reset : Statement .reset :=
  fun _ => (by decide : (0x8#4).toNat = 4 ∨ 8 ≤ (0x8#4).toNat ∧ (0x8#4).toNat ≤ 12)
theorem encode : Statement .encode :=
  fun _ => (by decide : (0x9#4).toNat = 4 ∨ 8 ≤ (0x9#4).toNat ∧ (0x9#4).toNat ≤ 12)
theorem transfer : Statement .transfer :=
  fun _ => (by decide : (0xA#4).toNat = 4 ∨ 8 ≤ (0xA#4).toNat ∧ (0xA#4).toNat ≤ 12)
theorem fill : Statement .fill :=
  fun _ => (by decide : (0xB#4).toNat = 4 ∨ 8 ≤ (0xB#4).toNat ∧ (0xB#4).toNat ≤ 12)
theorem table : Statement .table :=
  fun _ => (by decide : (0xC#4).toNat = 4 ∨ 8 ≤ (0xC#4).toNat ∧ (0xC#4).toNat ≤ 12)

theorem caset (start last : Byte) : Statement (.caset start last) :=
  fun p => ⟨p.cmdCaset, addressParams start last, none, rfl⟩

theorem raset (start last : Byte) : Statement (.raset start last) :=
  fun p => ⟨p.cmdRaset, addressParams start last, none, rfl⟩

theorem ramwr : Statement .ramwr := fun p => ⟨p.cmdRamwr, [], none, rfl⟩
theorem slpout : Statement .slpout := fun p => ⟨p.cmdSlpout, [], some Config.tSlpout, rfl⟩
theorem dispon : Statement .dispon := fun p => ⟨p.cmdDispon, [], some Config.tDispon, rfl⟩

theorem initTable (cmd : Byte) (params : List Byte) (delay : Option Nat) :
    Statement (.initTable cmd params delay) := by
  intro p
  refine ⟨cmd, params, delay, ?_⟩
  rw [Machine.vendorTxns_eq]
  cases delay <;> rfl

end Sys2Proof.Laws.RowFormat
end

