-- ==== Sys2Proof/Laws/Requests.lean ====
section
/-! SUPPORT. What the acceptance of a request can do, and what a step can do: one inversion lemma each. -/

namespace Sys2Proof.Machine

/-- What every acceptance leaves alone, and that it keeps the buffer canonical. -/
structure Quiet (s s' : State) : Prop where
  log       : s'.log = s.log
  panel     : s'.panel = s.panel
  params    : s'.params = s.params
  ir        : s'.ir = s.ir
  host      : s'.host = s.host
  transport : s'.transport = s.transport
  dcShadow  : s'.dcShadow = s.dcShadow
  rstShadow : s'.rstShadow = s.rstShadow
  buffer    : s.nb.wf = true → s'.nb.wf = true

/-- An acceptance that ended in an error. -/
structure Ended (s s' : State) : Prop extends Quiet s s' where
  phase    : s'.phase = .idle
  sub      : s'.sub = .none
  tl       : s'.tl = []
  seq      : s'.seq = 0
  initDone : s'.initDone = s.initDone
  resp     : s'.resp = some (respWord s.initDone s'.status)

/-- An INIT that was accepted. -/
structure InitStarted (s s' : State) : Prop extends Quiet s s' where
  phase    : s'.phase = .init
  sub      : s'.sub = .reset
  tl       : s'.tl = resetList ++ tableList s.params ++ tailList s.params
  seq      : s'.seq = 0
  initDone : s'.initDone = false
  resp     : s'.resp = none

/-- A SETWINDOW, RENDER or CLEAR that was accepted: a window sequence, and then, if anything, a TRANSFER. -/
structure WindowStarted (s s' : State) : Prop extends Quiet s s' where
  phase    : s'.phase = .render ∨ s'.phase = .clear ∨ s'.phase = .setwindow
  sub      : s'.sub = .window
  seq      : s'.seq = 0
  wasDone  : s.initDone = true
  initDone : s'.initDone = true
  resp     : s'.resp = none
  tl       : s'.tl = s'.requestList
  latches  : latchesFor s'.phase s'.wxs s'.wys s'.wxe s'.wye = true

theorem startFrame_eq (s : State) (ph : Phase) :
    s.startFrame ph = .next ((s.setLatches 0#12 0#12 fullXe fullYe).start ph
      (windowList s.params 0#12 0#12 fullXe fullYe ++ transferList s.params (s.nb.readRun 0 Config.nbSize))) := by
  rw [State.startFrame, State.nbRead_all]

theorem whenReady_next (s s' : State) (r : Result) (h : s.whenReady r = .next s') :
    s.phase = .idle ∧ r = .next s' := by
  unfold State.whenReady at h
  split at h
  · exact ⟨‹_›, h⟩
  · cases h

/-- A request's acceptance, when it answers a next state: the port was ready, and the request ended in an error, or
INIT started, or a window request started. -/
theorem exec_request_cases (i : Instr) (w : ReqWord) (s s' : State) (hd : decodeRequest w = .ok i)
    (h : exec i s = .next s') :
    s.phase = .idle ∧ (Ended s s' ∨ InitStarted s s' ∨ WindowStarted s s') := by
  have hi : i = .init ∨ i = .render ∨ i = .clear ∨ ∃ a b c d, i = .setwindow a b c d := by
    unfold decodeRequest at hd
    split at hd
    · cases hd; exact .inl rfl
    split at hd
    · cases hd; exact .inr (.inl rfl)
    split at hd
    · cases hd; exact .inr (.inr (.inl rfl))
    split at hd
    · cases hd; exact .inr (.inr (.inr ⟨_, _, _, _, rfl⟩))
    · cases hd
  rcases hi with rfl | rfl | rfl | ⟨a, b, c, d, rfl⟩
  · obtain ⟨hp, hr⟩ := whenReady_next _ _ _ h
    cases hr
    exact ⟨hp, .inr (.inl (by constructor <;> first | rfl | exact ⟨rfl, rfl, rfl, rfl, rfl, rfl, rfl, rfl, id⟩))⟩
  · obtain ⟨hp, hr⟩ := whenReady_next _ _ _ h
    refine ⟨hp, ?_⟩
    split at hr
    · rw [State.encodeFrame_eq] at hr
      simp only [andThen] at hr
      split at hr
      · next hdn =>
        rw [startFrame_eq] at hr
        cases hr
        refine .inr (.inr ?_)
        constructor
        · exact ⟨rfl, rfl, rfl, rfl, rfl, rfl, rfl, rfl, fun hw => by
          simpa using Memory.wf_writeRun _ 0 _ _ hw (Nat.le_of_eq (Nat.zero_add _))⟩
        · exact .inl rfl
        · rfl
        · rfl
        · exact hdn
        · exact hdn
        · rfl
        · simp [State.requestList, State.start, State.setLatches]
        · simp [latchesFor, State.start, State.setLatches]
      · cases hr
        refine .inl ?_
        constructor
        · exact ⟨rfl, rfl, rfl, rfl, rfl, rfl, rfl, rfl, fun hw => by
          simpa using Memory.wf_writeRun _ 0 _ _ hw (Nat.le_of_eq (Nat.zero_add _))⟩
        all_goals simp [hp]
    · cases hr
      refine .inl ?_
      constructor
      · exact ⟨rfl, rfl, rfl, rfl, rfl, rfl, rfl, rfl, id⟩
      all_goals simp [hp]
  · obtain ⟨hp, hr⟩ := whenReady_next _ _ _ h
    refine ⟨hp, ?_⟩
    split at hr
    · next hdn =>
      rw [State.fillBuffer_eq] at hr
      simp only [andThen] at hr
      rw [startFrame_eq] at hr
      cases hr
      refine .inr (.inr ?_)
      constructor
      · exact ⟨rfl, rfl, rfl, rfl, rfl, rfl, rfl, rfl, fun hw => by
          simpa using Memory.wf_writeRun _ 0 _ _ hw (Nat.le_of_eq (Nat.zero_add _))⟩
      · exact .inr (.inl rfl)
      · rfl
      · rfl
      · exact hdn
      · exact hdn
      · rfl
      · simp [State.requestList, State.start, State.setLatches]
      · simp [latchesFor, State.start, State.setLatches]
    · cases hr
      refine .inl ?_
      constructor
      · exact ⟨rfl, rfl, rfl, rfl, rfl, rfl, rfl, rfl, id⟩
      all_goals simp [hp]
  · obtain ⟨hp, hr⟩ := whenReady_next _ _ _ h
    refine ⟨hp, ?_⟩
    split at hr
    · next hwin =>
      split at hr
      · next hdn =>
        cases hr
        refine .inr (.inr ?_)
        constructor
        · exact ⟨rfl, rfl, rfl, rfl, rfl, rfl, rfl, rfl, id⟩
        · exact .inr (.inr rfl)
        · rfl
        · rfl
        · exact hdn
        · exact hdn
        · rfl
        · simp [State.requestList, State.start, State.setLatches]
        · simpa [latchesFor, State.start, State.setLatches] using hwin
      · cases hr
        refine .inl ?_
        constructor
        · exact ⟨rfl, rfl, rfl, rfl, rfl, rfl, rfl, rfl, id⟩
        all_goals simp [hp]
    · cases hr
      refine .inl ?_
      constructor
      · exact ⟨rfl, rfl, rfl, rfl, rfl, rfl, rfl, rfl, id⟩
      all_goals simp [hp]

/-- What a step can do when the slot is empty: wait; accept a request the host presents, which ends in an error or
starts; or issue the transaction at SEQ. -/
theorem step_cases (s s' : State) (hi : s.ir = none) (h : step s = .next s') :
    (s.phase = .idle ∧ s.host = [] ∧ s' = s) ∨
    (s.phase = .idle ∧ ∃ r rest, s.host = r :: rest ∧
      (Ended (s.take r rest) s' ∨ InitStarted (s.take r rest) s' ∨ WindowStarted (s.take r rest) s')) ∨
    (s.phase ≠ .idle ∧ ∃ t, s.tl[s.seq]? = some t ∧ s' = s.issueNext t) := by
  simp only [step, hi] at h
  split at h
  · next hp =>
    unfold State.stepIdle at h
    split at h
    · cases h; exact .inl ⟨hp, ‹_›, rfl⟩
    · next r rest hh =>
      split at h
      · cases h
      · next w hw =>
        refine .inr (.inl ⟨hp, r, rest, hh, ?_⟩)
        unfold State.accept at h
        split at h
        · next i hd => exact (exec_request_cases i w _ s' hd h).2
        · cases h
          refine .inl ?_
          constructor
          · exact ⟨rfl, rfl, rfl, rfl, rfl, rfl, rfl, rfl, id⟩
          all_goals simp [acceptIllegal, hp]
  · next hp =>
    unfold State.stepRunning at h
    split at h
    · next t ht => cases h; exact .inr (.inr ⟨hp, t, ht, rfl⟩)
    · cases h

end Sys2Proof.Machine
end

