-- ==== Sys2Proof/Machine/Text.lean ====
section
/-! DEFINITION. The text forms of requests and of LOG (30_encoding.md R101, R102; log 30). No step reads them: a host
assembles a line into the word it presents, and a log is read off LOG. -/

namespace Sys2Proof.Machine

/-! ## Request lines (30_encoding.md R101) -/

/-- A text without the blanks at its ends. -/
def strip (cs : List Char) : List Char :=
  ((cs.dropWhile (· = ' ')).reverse.dropWhile (· = ' ')).reverse

/-- The pieces of a text between commas. -/
def splitCommas : List Char → List (List Char)
  | [] => [[]]
  | c :: cs =>
    if c = ',' then [] :: splitCommas cs
    else match splitCommas cs with
      | [] => [[c]]
      | w :: ws => (c :: w) :: ws

/-- The value of a digit. -/
def digitOf (c : Char) : Option Nat :=
  let n := c.toNat
  if 48 ≤ n ∧ n ≤ 57 then some (n - 48)
  else if 65 ≤ n ∧ n ≤ 70 then some (n - 55)
  else if 97 ≤ n ∧ n ≤ 102 then some (n - 87)
  else none

/-- The number that digits of a base spell, `acc` being what the digits before them spell. -/
def numberFrom (base acc : Nat) : List Char → Option Nat
  | [] => some acc
  | c :: cs =>
    match digitOf c with
    | some d => if d < base then numberFrom base (acc * base + d) cs else none
    | none => none

/-- An operand, decimal or `0x` hexadecimal. -/
def operandOf : List Char → Option Nat
  | [] => none
  | ['0', 'x'] => none
  | '0' :: 'x' :: ds => numberFrom 16 0 ds
  | ds => numberFrom 10 0 ds

/-- The call a line stands for. A name after RENDER is not encoded. -/
def callOfLine (line : List Char) : Option HostCall :=
  let l := strip line
  let mnemonic := l.takeWhile (· ≠ ' ')
  let rest := strip (l.dropWhile (· ≠ ' '))
  if mnemonic = ['I', 'N', 'I', 'T'] then if rest = [] then some .init else none
  else if mnemonic = ['R', 'E', 'N', 'D', 'E', 'R'] then if rest.all (· ≠ ' ') then some .render else none
  else if mnemonic = ['C', 'L', 'E', 'A', 'R'] then if rest = [] then some .clear else none
  else if mnemonic = ['S', 'E', 'T', 'W', 'I', 'N', 'D', 'O', 'W'] then
    match (splitCommas rest).map fun w => operandOf (strip w) with
    | [some xs, some ys, some xe, some ye] => some (.setWindow xs ys xe ye)
    | _ => none
  else none

/-- The word a line assembles to; none for an operand above 4095 and for a line that is no request. -/
def assembleLine (line : List Char) : Option ReqWord := (callOfLine line).bind HostCall.toWord?

/-! ## LOG as text (30_encoding.md R102) -/

/-- A hexadecimal digit. -/
def hexDigit (n : Nat) : Char := if n < 10 then Char.ofNat (48 + n) else Char.ofNat (55 + n)

/-- A byte as two hexadecimal digits. -/
def hexByte (b : Byte) : String := String.ofList [hexDigit (b.toNat / 16), hexDigit (b.toNat % 16)]

/-- A command byte: by mnemonic where it is one of the five parameters, else by number. -/
def cmdText (p : Params) (b : Byte) : String :=
  if b = p.cmdCaset then "CASET"
  else if b = p.cmdRaset then "RASET"
  else if b = p.cmdRamwr then "RAMWR"
  else if b = p.cmdSlpout then "SLPOUT"
  else if b = p.cmdDispon then "DISPON"
  else "0x" ++ hexByte b

/-- The bytes of a DATA: a run of one byte, longer than any parameter list of a window command, by its length. -/
def bytesText : List Byte → String
  | [] => "[]"
  | b :: bs =>
    if 4 ≤ bs.length ∧ bs.all (· == b) = true then "0x" ++ hexByte b ++ "×" ++ toString (bs.length + 1)
    else "[" ++ hexByte b ++ bs.foldl (fun t c => t ++ " " ++ hexByte c) "" ++ "]"

/-- A transaction. -/
def txnText (p : Params) : Txn → String
  | .cmd b => "CMD " ++ cmdText p b
  | .data bs => "DATA " ++ bytesText bs
  | .pinRst .high => "PIN RST HIGH"
  | .pinRst .low => "PIN RST LOW"
  | .pinDc .data => "PIN DC DATA"
  | .pinDc .command => "PIN DC COMMAND"
  | .sleep ms => "SLEEP " ++ toString ms

/-- An entry of LOG; a failed transaction is marked. -/
def entryText (p : Params) (e : LogEntry) : String :=
  txnText p e.1 ++ (match e.2 with
    | .ok => ""
    | .fail => " !FAIL")

end Sys2Proof.Machine
end

