-- ==== Sys2Proof/Tests/Slice0.lean ====
section
/-! SUPPORT. The model's own tests: well-formedness smoke tests, words written out from the spec's encodings, single
steps with the results of 95_test_vectors.md, and for every statement with hypotheses a witness that meets them. -/

namespace Sys2Proof.Tests

open Sys2Proof Sys2Proof.Machine

/-! ## Configurations and states -/

/-- The illustrative table T_EX of 95_test_vectors.md V-INIT. -/
def tEx : List TableEntry := [⟨0xA0#8, [], none⟩, ⟨0xA1#8, [0x05#8], none⟩, ⟨0xA2#8, [0x01#8, 0x02#8], some 5⟩]

/-- The defaults of 00_scope.md R9 with T_EX. -/
def cfg : Params where
  chunkMax := 4096
  transportMax := 4096
  initTable := tEx
  cmdCaset := 0x2A#8
  cmdRaset := 0x2B#8
  cmdRamwr := 0x2C#8
  cmdSlpout := 0x11#8
  cmdDispon := 0x29#8
  dcDataLevel := .high
  it1 := true
  it2 := true

/-- Reset with those parameters, and OK answers listed. -/
def base (oks : Nat) : State :=
  { State.reset with params := cfg, transport := List.replicate oks .ok }

/-- After a completed INIT: INIT_DONE is 1 and the observer is configured. -/
def ready (oks : Nat) : State :=
  { base oks with initDone := true, panel := { Panel.unknown with configured := true } }

/-- A running request, INIT_DONE 1, with the transactions still to issue. -/
def running (ph : Phase) (tl : List Txn) (answers : List TxnOutcome) : State :=
  { ready 0 with phase := ph, sub := subAt ph 0, tl := tl, seq := 0, transport := answers }

/-- An image of a size, with the bytes of its first pixels. -/
def img (w h c : Nat) (bytes : List Byte) : Image := ⟨w, h, c, bytes, true⟩

/-- What a test reads off a next state. -/
def read {α : Type} (f : State → α) : Result → Option α
  | .next s => some (f s)
  | .fault _ => none
  | .refused _ => none

/-! ## Well-formedness: an ill-formed term for each check -/

/-- Start above last. -/
theorem test_illFormed_caset : WellFormed cfg (.caset 0x02#8 0x01#8) = false := by decide
/-- Last past the panel. -/
theorem test_illFormed_raset : WellFormed cfg (.raset 0x00#8 0xF0#8) = false := by decide
/-- A sleep-out command in the table (10_state.md R21). -/
theorem test_illFormed_vendor_sleepOut : WellFormed cfg (.initTable 0x11#8 [0x01#8] none) = false := by decide
/-- A frame that is RAMWR's own. -/
theorem test_illFormed_vendor_named : WellFormed cfg (.initTable 0x2C#8 [] none) = false := by decide

/-! ## Decoding: words from 30_encoding.md R82, 95_test_vectors.md V-DEC and V-WIN, and 10_state.md R26 -/

theorem test_decode_requests :
    decodeRequest 0x0000000000000001#64 = .ok .init ∧ decodeRequest 0x0000000000000002#64 = .ok .render ∧
    decodeRequest 0x0000000000000003#64 = .ok .clear := by decide

theorem test_decode_setwindow :
    decodeRequest 0x002801E01400A004#64 = .ok (.setwindow 10#12 20#12 30#12 40#12) ∧
    decodeRequest 0x0FFFFFF000000004#64 = .ok (.setwindow 0#12 0#12 4095#12 4095#12) := by decide

theorem test_decode_illegal :
    decodeRequest 0x0000000000000000#64 = .error .reservedOp ∧
    decodeRequest 0x0000000000000005#64 = .error .reservedOp ∧
    decodeRequest 0x0000000000000008#64 = .error .internalOp ∧
    decodeRequest 0x0000000000000011#64 = .error .reservedField ∧
    decodeRequest 0x0000000000001001#64 = .error .reservedField ∧
    decodeRequest 0x00F00F0000000014#64 = .error .reservedField ∧
    decodeRequest 0x10F00F0000000004#64 = .error .reservedField := by decide

theorem test_decode_subops :
    decodeSubop 0x4#4 = .ok .window ∧ decodeSubop 0x8#4 = .ok .reset ∧ decodeSubop 0x9#4 = .ok .encode ∧
    decodeSubop 0xA#4 = .ok .transfer ∧ decodeSubop 0xB#4 = .ok .fill ∧ decodeSubop 0xC#4 = .ok .table ∧
    decodeSubop 0x0#4 = .error .noSubOperation ∧ decodeSubop 0xD#4 = .error .noSubOperation := by decide

theorem test_decode_panelCommands :
    decodeFrame cfg [.cmd 0x2A#8, .data [0x00#8, 0x0A#8, 0x00#8, 0x1D#8]] = .ok (.caset 0x0A#8 0x1D#8) ∧
    decodeFrame cfg [.cmd 0x2B#8, .data [0x00#8, 0x14#8, 0x00#8, 0x27#8]] = .ok (.raset 0x14#8 0x27#8) ∧
    decodeFrame cfg [.cmd 0x2C#8] = .ok .ramwr ∧ decodeFrame cfg [.cmd 0x11#8, .sleep 120] = .ok .slpout ∧
    decodeFrame cfg [.cmd 0x29#8, .sleep 20] = .ok .dispon ∧
    decodeFrame cfg [.cmd 0xA2#8, .data [0x01#8, 0x02#8], .sleep 5] = .ok (.initTable 0xA2#8 [0x01#8, 0x02#8] (some 5)) ∧
    decodeFrame cfg [.pinDc .data] = .error .notAFrame := by decide

/-- 30_encoding.md R98: the frame runs over both DATAs, to the next CMD. -/
theorem test_decode_frameEnd :
    decodeStream cfg [.cmd 0xA2#8, .data [0x01#8], .data [0x02#8], .cmd 0x29#8] =
      .ok (.initTable 0xA2#8 [0x01#8, 0x02#8] none, [.cmd 0x29#8]) ∧
    takeFrame [.cmd 0x2C#8, .pinDc .data, .data [0x12#8]] = some (⟨0x2C#8, [], none⟩, [.pinDc .data, .data [0x12#8]]) ∧
    takeFrame [.data [0x01#8], .cmd 0x2C#8] = none := by decide

theorem test_tableRows :
    decodeTableWord 64 1 = some .init ∧ decodeTableWord 64 2 = some .render ∧ decodeTableWord 64 3 = some .clear ∧
    decodeTableWord 64 4 = some (.setwindow 0#12 0#12 0#12 0#12) ∧ decodeTableWord 8 4 = some .window ∧
    decodeTableWord 8 8 = some .reset ∧ decodeTableWord 8 9 = some .encode ∧ decodeTableWord 8 10 = some .transfer ∧
    decodeTableWord 8 11 = some .fill ∧ decodeTableWord 8 12 = some .table := by decide

theorem test_tableRows_panel :
    decodeTableWord 8 0x2A = some (.caset 0x00#8 0x00#8) ∧ decodeTableWord 8 0x2B = some (.raset 0x00#8 0x00#8) ∧
    decodeTableWord 8 0x2C = some .ramwr ∧ decodeTableWord 8 0x11 = some .slpout ∧
    decodeTableWord 8 0x29 = some .dispon ∧ decodeTableWord 8 0 = some (.initTable 0x00#8 [] none) := by decide

/-! ## One step each: host requests (95_test_vectors.md V-INIT, V-WIN, V-RENDER and V-CLEAR) -/

theorem test_init_list : read State.tl (exec .init (base 0)) = some
    [.pinRst .high, .sleep 10, .pinRst .low, .sleep 10, .pinRst .high, .sleep 10, .cmd 0xA0#8, .cmd 0xA1#8,
      .data [0x05#8], .cmd 0xA2#8, .data [0x01#8, 0x02#8], .sleep 5, .cmd 0x11#8, .sleep 120, .cmd 0x29#8,
      .sleep 20] := by decide

theorem test_init_clearsInitDone :
    read (fun s => (s.initDone, s.phase.code, s.req)) (exec .init (ready 0)) =
      some (false, 1#4, 0x0000000000000001#64) := by decide

theorem test_setwindow_list : read State.tl (exec (.setwindow 10#12 20#12 30#12 40#12) (ready 0)) = some
    [.cmd 0x2A#8, .data [0x00#8, 0x0A#8, 0x00#8, 0x1D#8], .cmd 0x2B#8, .data [0x00#8, 0x14#8, 0x00#8, 0x27#8],
      .cmd 0x2C#8] := by decide

/-- `xe = 241`: InvalidWindow, no latch written. -/
theorem test_setwindow_invalid :
    read (fun s => (s.resp, s.tl, s.wxe)) (exec (.setwindow 0#12 0#12 241#12 240#12) (ready 0)) =
      some (some 0x0B#8, [], 0#12) := by decide

/-- C = 2, and 100x100 before INIT: DimensionMismatch before NotInitialized. -/
theorem test_render_dimension :
    read State.resp (exec .render { ready 0 with image := img 240 240 2 [] }) = some (some 0x0A#8) ∧
    read State.resp (exec .render { base 0 with image := img 100 100 3 [] }) = some (some 0x02#8) := by decide

/-- The list of a RENDER starts with WINDOW_FULL and PIN DC DATA; an alpha channel is accepted. -/
theorem test_render_list :
    read (fun s => s.tl.take 6) (exec .render { ready 0 with image := img 240 240 4 [] }) = some
      [.cmd 0x2A#8, .data [0x00#8, 0x00#8, 0x00#8, 0xEF#8], .cmd 0x2B#8, .data [0x00#8, 0x00#8, 0x00#8, 0xEF#8],
        .cmd 0x2C#8, .pinDc .data] := rfl

theorem test_clear_notInitialized : read State.resp (exec .clear (base 0)) = some (some 0x05#8) := by decide

theorem test_clear_latches :
    read (fun s => (s.wxs, s.wys, s.wxe, s.wye, s.phase.code)) (exec .clear (ready 0)) =
      some (0#12, 0#12, 240#12, 240#12, 3#4) := rfl

/-! ## One step each: sub-operations -/

/-- V-RST. -/
theorem test_reset_log : read (fun s => (s.log, s.rstShadow)) (exec .reset (base 6)) = some
    (okEntries [.pinRst .high, .sleep 10, .pinRst .low, .sleep 10, .pinRst .high, .sleep 10], .high) := by decide

/-- V-FAIL: the third transaction of an INIT fails. -/
theorem test_reset_fails :
    read (fun s => (s.log, s.resp, s.initDone, s.rstShadow))
      (exec .reset { running .init resetList [.ok, .ok, .fail] with initDone := false }) = some
        ([(.pinRst .high, .ok), (.sleep 10, .ok), (.pinRst .low, .fail)], some 0x01#8, false, .unknown) := by decide

/-- V-INIT: the entries after the reset pulse. -/
theorem test_table_log : read State.log (exec .table (base 10)) = some (okEntries
    [.cmd 0xA0#8, .cmd 0xA1#8, .data [0x05#8], .cmd 0xA2#8, .data [0x01#8, 0x02#8], .sleep 5, .cmd 0x11#8, .sleep 120,
      .cmd 0x29#8, .sleep 20]) := by decide

/-- V-OBS: SETWINDOW 10, 20, 30, 40 arms (10, 20, 29, 39). -/
theorem test_window_arms :
    read (fun s => s.panel.armed)
      (exec .window { ready 5 with wxs := 10#12, wys := 20#12, wxe := 30#12, wye := 40#12 }) =
        some (some ⟨10, 20, 29, 39, 0, none⟩) := by decide

/-- The one-pixel window 239, 239, 240, 240 of V-WIN. -/
theorem test_window_onePixel :
    read (fun s => s.log[1]?)
      (exec .window { ready 5 with wxs := 239#12, wys := 239#12, wxe := 240#12, wye := 240#12 }) =
        some (some (.data [0x00#8, 0xEF#8, 0x00#8, 0xEF#8], .ok)) := by decide

/-- V-ENC: 12 34 56 packs to 11 AA; the last byte of NB is pixel (239, 239)'s, not the first's. -/
theorem test_encode_bytes :
    frameByte (img 240 240 3 [0x12#8, 0x34#8, 0x56#8]) 0 0 = 0x11#8 ∧
    frameByte (img 240 240 3 [0x12#8, 0x34#8, 0x56#8]) 0 1 = 0xAA#8 ∧
    frameByte (img 240 240 4 [0x12#8, 0x34#8, 0x56#8, 0x99#8, 0x00#8, 0xFC#8, 0x00#8]) 0 2 = 0x07#8 := by decide

/-- An image that does not fit: no byte is written. -/
theorem test_encode_mismatch :
    read (fun s => (s.nb, s.status)) (exec .encode { ready 0 with image := img 240 239 3 [] }) =
      some ([], .dimensionMismatch) := by decide

/-- The first and the last byte after FILL. -/
theorem test_fill_bytes :
    read (fun s => (s.nb.read 0, s.nb.read 115199)) (exec .fill (base 0)) = some (0xFF#8, 0xFF#8) := by
  have h : ∀ a, a < 115200 →
      Memory.read (Memory.writeRun [] 0 Config.nbSize fun _ => fillByte) a = 0xFF#8 := by
    intro a ha
    rw [Memory.read_writeRun _ _ _ _ _ rfl (Nat.le_of_eq (Nat.zero_add _)),
      if_pos ⟨Nat.zero_le _, by rw [Nat.zero_add]; exact ha⟩]
    rfl
  have e : exec .fill (base 0) = .next { (base 0).mark .fill with
      nb := Memory.writeRun [] 0 Config.nbSize fun _ => fillByte } := State.fillBuffer_eq _
  rw [e]
  simp only [read]
  rw [h 0 (by decide), h 115199 (by decide)]

/-- TRANSFER sets the line to data first; a failure there sends no chunk. -/
theorem test_transfer_pinFails :
    read (fun s => (s.log, s.resp)) (exec .transfer (running .clear [.pinDc .data] [.fail])) =
      some ([(.pinDc .data, .fail)], some 0x09#8) := rfl

/-- 41_frame_transfer.md R160 on five bytes in twos, and V-XFER's L = 0. -/
theorem test_chunks :
    chunks [1#8, 2#8, 3#8, 4#8, 5#8] 2 = [[1#8, 2#8], [3#8, 4#8], [5#8]] ∧ chunks [] 4096 = [] ∧
    chunks [1#8] 4096 = [[1#8]] := by decide

/-! ## One step each: panel commands -/

theorem test_caset_columns :
    read (fun s => (s.log, s.panel.col, s.dcShadow)) (exec (.caset 0x0A#8 0x1D#8) (ready 2)) = some
      ([(.cmd 0x2A#8, .ok), (.data [0x00#8, 0x0A#8, 0x00#8, 0x1D#8], .ok)], some (0x0A#8, 0x1D#8), .data) := by decide

theorem test_raset_rows :
    read (fun s => (s.log, s.panel.row)) (exec (.raset 0x14#8 0x27#8) (ready 2)) = some
      ([(.cmd 0x2B#8, .ok), (.data [0x00#8, 0x14#8, 0x00#8, 0x27#8], .ok)], some (0x14#8, 0x27#8)) := by decide

/-- RAMWR with one range missing: not armed (40_controller_protocol.md R141). -/
theorem test_ramwr_oneRange :
    read (fun s => (s.log, s.panel.armed))
      (exec .ramwr { ready 1 with panel := { Panel.unknown with col := some (0x00#8, 0xEF#8) } }) =
        some ([(.cmd 0x2C#8, .ok)], none) := by decide

theorem test_slpout_settles :
    read State.log (exec .slpout (ready 2)) = some [(.cmd 0x11#8, .ok), (.sleep 120, .ok)] := by decide

/-- V-OBS: CMD DISPON at any point: not armed, every pixel UNKNOWN. -/
theorem test_dispon_forgets :
    read (fun s => (s.log, s.panel.armed, s.panel.gram))
      (exec .dispon { ready 2 with
        panel := { Panel.unknown with configured := true, armed := some ⟨0, 0, 1, 1, 1, none⟩, gram := [(0, 1#16)] } }) =
        some ([(.cmd 0x29#8, .ok), (.sleep 20, .ok)], none, []) := by decide

/-- A delay of 0 is issued as SLEEP(0) (40_controller_protocol.md R122). -/
theorem test_initTable_zeroDelay :
    read State.log (exec (.initTable 0xA1#8 [0x05#8] (some 0)) (base 3)) =
      some [(.cmd 0xA1#8, .ok), (.data [0x05#8], .ok), (.sleep 0, .ok)] := by decide

/-! ## Steps, responses and the observer -/

/-- The last transaction of an INIT: RESP 0x08, INIT_DONE 1, the observer configured. -/
theorem test_step_completesInit :
    read (fun s => (s.resp, s.initDone, s.panel.configured, s.phase, s.seq))
      (step { running .init [.sleep 20] [.ok] with initDone := false, panel := Panel.unknown }) =
        some (some 0x08#8, true, true, .idle, 0) := by decide

/-- V-FAIL: SETWINDOW fails at index 0. -/
theorem test_step_fails :
    read (fun s => (s.log, s.resp, s.initDone, s.panel)) (step (running .setwindow [.cmd 0x2A#8] [.fail])) =
      some ([(.cmd 0x2A#8, .fail)], some 0x09#8, true, Panel.unknown) := by decide

/-- P3: the word 7 is illegal. -/
theorem test_step_illegal :
    read (fun s => (s.resp, s.req, s.log)) (step { ready 0 with host := [⟨.word 0x0000000000000007#64, none⟩] }) =
      some (some 0x0C#8, 0x0000000000000007#64, []) := by decide

/-- The armed window of V-OBS. -/
def armedPanel : Panel := { Panel.unknown with configured := true, armed := some ⟨10, 20, 29, 39, 0, none⟩ }

/-- V-OBS: DATA 12 34, then AB and CD in two DATA. -/
theorem test_observer_pixels :
    let p := armedPanel.observeAll cfg (okEntries [.data [0x12#8, 0x34#8], .data [0xAB#8], .data [0xCD#8]])
    p.pixel 10 20 = some 0x1234#16 ∧ p.pixel 11 20 = some 0xABCD#16 ∧ p.pixel 12 20 = none ∧
    p.armed = some ⟨10, 20, 29, 39, 2, none⟩ := by decide

/-- V-OBS: pixel 20 lands at (10, 21); a pair past the window's last pixel makes every pixel UNKNOWN. -/
theorem test_observer_wrapAndOverrun :
    (Panel.observe cfg { armedPanel with armed := some ⟨10, 20, 29, 39, 20, none⟩ } (.data [0x12#8, 0x34#8]) .ok).pixel
      10 21 = some 0x1234#16 ∧
    (Panel.observe cfg { armedPanel with armed := some ⟨10, 20, 29, 39, 400, none⟩, gram := [(0, 1#16)] }
      (.data [0x12#8, 0x34#8]) .ok).gram = [] := by decide

/-- V-ENC. -/
theorem test_pack :
    packPixel 0x12#8 0x34#8 0x56#8 = 0x11AA#16 ∧ packPixel 0x00#8 0xFB#8 0x00#8 = 0x07C0#16 ∧
    packPixel 0xFF#8 0x1F#8 0x00#8 = 0xF8E0#16 ∧ packPixel 0x08#8 0x04#8 0x08#8 = 0x0821#16 := by decide

/-- 30_encoding.md R93: the levels of the command/data line. -/
theorem test_dcLevel : cfg.dcLevel .data = .high ∧ cfg.dcLevel .command = .low := by decide

/-- 95_test_vectors.md P3's line and word; an operand above 4095 has none (30_encoding.md R101). -/
theorem test_assembleLine :
    assembleLine "SETWINDOW 10, 20, 30, 40".toList = some 0x002801E01400A004#64 ∧
    assembleLine "SETWINDOW 0, 0, 0xF0, 240".toList = some 0x00F00F0000000004#64 ∧
    assembleLine "RENDER black".toList = some 0x0000000000000002#64 ∧
    assembleLine "SETWINDOW 0, 0, 4096, 1".toList = none := by decide

/-- The forms of 30_encoding.md R102. -/
theorem test_entryText :
    entryText cfg (.data [0x00#8, 0x0A#8, 0x00#8, 0x1D#8], .ok) = "DATA [00 0A 00 1D]" ∧
    entryText cfg (.cmd 0x2A#8, .fail) = "CMD CASET !FAIL" ∧ entryText cfg (.cmd 0xA0#8, .ok) = "CMD 0xA0" ∧
    entryText cfg (.data (List.replicate 5 0xFF#8), .ok) = "DATA 0xFF×5" := by decide

/-! ## Witnesses: for each statement with hypotheses, a state and operands that meet them -/

theorem witness_DecodeOfEncodeIsTheInstruction :
    cfg.distinct = true ∧ WellFormed cfg (.setwindow 4095#12 0#12 4095#12 0#12) = true ∧
    WellFormed cfg (.caset 0x00#8 0xEF#8) = true ∧ WellFormed cfg (.raset 0xEF#8 0xEF#8) = true ∧
    WellFormed cfg (.initTable 0xA2#8 [0x01#8, 0x02#8] (some 0)) = true := by decide

theorem witness_EncodeOfDecodedRequestIsTheWord :
    decodeRequest 0x0FFFFFF000000004#64 = .ok (.setwindow 0#12 0#12 4095#12 4095#12) := by decide

/-- Frames with a rest that is a CMD, and streams that start with another record. -/
theorem witness_StreamDecoderTakesOneCommand :
    cfg.distinct = true ∧ WellFormed cfg .slpout = true ∧ WellFormed cfg (.initTable 0xA0#8 [] none) = true ∧
    encode cfg .slpout = .frame [.cmd 0x11#8, .sleep 120] ∧
    encode cfg (.initTable 0xA0#8 [] none) = .frame [.cmd 0xA0#8] ∧
    (∃ b r, [Txn.cmd 0x29#8] = .cmd b :: r) ∧ ∀ c r, [Txn.data [0x01#8], .cmd 0x2C#8] ≠ .cmd c :: r :=
  ⟨by decide, by decide, by decide, by decide, by decide, ⟨_, _, rfl⟩, by simp⟩

/-- The host calls SETWINDOW. -/
def calls (xs ys xe ye : Int) : State := { base 0 with host := [⟨.setWindow xs ys xe ye, none⟩] }

theorem witness_UnencodableCoordinateRefused :
    ((calls (-1) 0 1 1).ir = none ∧ (calls (-1) 0 1 1).phase = .idle ∧
      (calls (-1) 0 1 1).host = ⟨.setWindow (-1) 0 1 1, none⟩ :: [] ∧ (-1 : Int) < 0) ∧
    ((calls 0 0 4096 1).host = ⟨.setWindow 0 0 4096 1, none⟩ :: [] ∧ 4095 < (4096 : Int)) ∧
    ((calls 0 4095 0 4095).host = ⟨.setWindow 0 4095 0 4095, none⟩ :: [] ∧ 0 ≤ (0 : Int) ∧ (4095 : Int) ≤ 4095) := by
  refine ⟨⟨rfl, rfl, rfl, by decide⟩, ⟨rfl, by decide⟩, rfl, by decide, by decide⟩

theorem witness_StepRunsDecodedInstruction :
    (∃ (s : State) (r : HostRequest) (rest : List HostRequest) (w : ReqWord) (i : Instr), s.ir = none ∧
      s.phase = .idle ∧ s.host = r :: rest ∧ r.call.toWord? = some w ∧ decodeRequest w = .ok i) ∧
    ∃ (s : State) (e : Encoded) (i : Instr), s.ir = some e ∧ decode s.params e = .ok i :=
  ⟨⟨calls 0 0 240 240, _, _, 0x00F00F0000000004#64, _, rfl, rfl, rfl, rfl, rfl⟩,
    { base 0 with ir := some (.subop 0x8#4) }, _, .reset, rfl, rfl⟩

theorem witness_TableWordRunsAfterReset :
    decodeTableWord 64 3 = some .clear ∧ decodeTableWord 8 11 = some .fill ∧
    decodeTableWord 8 0x2C = some .ramwr := by decide

/-- The invariant of an idle state after a completed INIT, whatever the host calls. -/
theorem ready_inv (n : Nat) (h : List HostRequest) (im : Image) :
    State.Inv { ready n with host := h, image := im } := by
  constructor <;>
    simp [ready, base, State.reset, subAt, initDoneFor, latchesFor, Panel.unknown, Cells.rising, Cells.below]

theorem witness_IllegalWordEndsWithIllegalRequest :
    ∃ (s : State) (r : HostRequest) (rest : List HostRequest) (w : ReqWord) (e : Reject), s.Inv ∧ s.phase = .idle ∧
      s.host = r :: rest ∧ r.call.toWord? = some w ∧ decodeRequest w = .error e :=
  ⟨_, ⟨.word 7#64, none⟩, [], 7#64, .reservedOp, ready_inv 0 [⟨.word 7#64, none⟩] Image.free, rfl, rfl, rfl, rfl⟩

/-- A SETWINDOW with two transactions to go, and one. -/
def two (o : TxnOutcome) : State := running .setwindow [.cmd 0x2A#8, .cmd 0x2C#8] [o]
def one (ph : Phase) (o : TxnOutcome) : State := running ph [.sleep 20] [o]

theorem witness_StepIssuesTransactionAtSeq :
    (two .ok).ir = none ∧ (two .ok).phase ≠ .idle ∧ (two .ok).tl[(two .ok).seq]? = some (.cmd 0x2A#8) ∧
    (two .ok).outcome (.cmd 0x2A#8) = .ok ∧ (two .ok).seq + 1 ≠ (two .ok).tl.length := by decide

theorem witness_LastTransactionCompletesRequest :
    (one .init .ok).ir = none ∧ (one .init .ok).phase ≠ .idle ∧
    (one .init .ok).tl[(one .init .ok).seq]? = some (.sleep 20) ∧ (one .init .ok).outcome (.sleep 20) = .ok ∧
    (one .init .ok).seq + 1 = (one .init .ok).tl.length := by decide

theorem witness_FailedTransactionAbortsRequest :
    (two .fail).ir = none ∧ (two .fail).phase ≠ .idle ∧ (two .fail).tl[(two .fail).seq]? = some (.cmd 0x2A#8) ∧
    (two .fail).outcome (.cmd 0x2A#8) = .fail := by decide

/-- An INIT at its start, with listed answers. -/
def initRun (answers : List TxnOutcome) : State :=
  { running .init (resetList ++ tableList cfg ++ tailList cfg) answers with
    initDone := false, panel := Panel.unknown }

theorem witness_StepsRunOperation :
    (initRun (List.replicate 6 .ok)).ir = none ∧ (initRun (List.replicate 6 .ok)).phase ≠ .idle ∧
    (initRun (List.replicate 6 .ok)).txnsOf .reset = some resetList ∧ resetList ≠ [] ∧
    resetList <+: (initRun (List.replicate 6 .ok)).tl.drop (initRun (List.replicate 6 .ok)).seq ∧
    State.AnswersOk resetList (initRun (List.replicate 6 .ok)) :=
  ⟨rfl, by decide, rfl, by decide, ⟨tableList cfg ++ tailList cfg, rfl⟩, State.answersOk_of_listed _ _ [] rfl⟩

theorem witness_StepsFailLikeOperation :
    (initRun [.ok, .ok, .fail]).ir = none ∧ (initRun [.ok, .ok, .fail]).phase ≠ .idle ∧
    (initRun [.ok, .ok, .fail]).txnsOf .reset =
      some ([.pinRst .high, .sleep 10] ++ .pinRst .low :: [.sleep 10, .pinRst .high, .sleep 10]) ∧
    [.pinRst .high, .sleep 10] ++ [.pinRst .low] <+:
      (initRun [.ok, .ok, .fail]).tl.drop (initRun [.ok, .ok, .fail]).seq ∧
    State.FailsAfter [.pinRst .high, .sleep 10] (.pinRst .low) (initRun [.ok, .ok, .fail]) :=
  ⟨rfl, by decide, rfl, by decide, ⟨rfl, rfl, trivial⟩, rfl⟩

theorem witness_RequestCompletesInItsListLength :
    (initRun (List.replicate 16 .ok)).ir = none ∧ (initRun (List.replicate 16 .ok)).phase ≠ .idle ∧
    (initRun (List.replicate 16 .ok)).seq < (initRun (List.replicate 16 .ok)).tl.length ∧
    State.AnswersOk ((initRun (List.replicate 16 .ok)).tl.drop (initRun (List.replicate 16 .ok)).seq)
      (initRun (List.replicate 16 .ok)) :=
  ⟨rfl, by decide, by decide, State.answersOk_of_listed _ _ [] rfl⟩

theorem witness_FailedRequestLeavesPrefixInLog :
    (initRun [.ok, .ok, .fail]).ir = none ∧ (initRun [.ok, .ok, .fail]).phase ≠ .idle ∧
    (∃ after, (initRun [.ok, .ok, .fail]).tl.drop (initRun [.ok, .ok, .fail]).seq =
      [.pinRst .high, .sleep 10] ++ .pinRst .low :: after) ∧
    State.FailsAfter [.pinRst .high, .sleep 10] (.pinRst .low) (initRun [.ok, .ok, .fail]) :=
  ⟨rfl, by decide, ⟨_, rfl⟩, ⟨rfl, rfl, trivial⟩, rfl⟩

/-- The invariant of a running INIT. -/
theorem initRun_inv (answers : List TxnOutcome) : (initRun answers).Inv := by
  constructor <;>
    simp [initRun, running, ready, base, State.reset, subAt, initDoneFor, Panel.unknown, Cells.rising, Cells.below,
      resetCount, resetList, tableList, cfg, tEx, tailList, vendorTxns, frame, sleepOf, slpoutTxns, disponTxns,
      issuable, State.requestList, latchesFor, Config.tRst, Config.tSlpout, Config.tDispon]

theorem witness_StepKeepsInvariant : ∃ s s' : State, s.Inv ∧ step s = .next s' :=
  ⟨_, _, initRun_inv [.ok], rfl⟩

theorem witness_LogOnlyGrowsByOneEntry : ∃ s s' : State, s.ir = none ∧ step s = .next s' :=
  ⟨two .ok, _, rfl, rfl⟩

theorem witness_ParametersNeverWritten :
    (∃ s' : State, step (two .ok) = .next s') ∧
    ∃ s' : State, step { base 6 with ir := some (.subop 0x8#4) } = .next s' := ⟨⟨_, rfl⟩, _, rfl⟩

theorem witness_OnlyInitWritesInitDone :
    ∃ s s' : State, s.ir = none ∧ step s = .next s' ∧ s.phase ≠ .init ∧ s'.phase ≠ .init :=
  ⟨two .ok, _, rfl, rfl, by decide, by decide⟩

theorem witness_PanelFollowsLog : ∃ s s' : State, s.ir = none ∧ step s = .next s' :=
  ⟨one .init .ok, _, rfl, rfl⟩

/-- A step outside INIT, a step of an INIT that does not complete it, and the one that does. -/
theorem witness_UnconfiguredPanelKnowsNoPixel :
    (∃ s s' : State, s.ir = none ∧ step s = .next s' ∧ s.panel.configured = false ∧ s.panel.gram = [] ∧
      s.phase ≠ .init) ∧
    (∃ s s' : State, s.ir = none ∧ step s = .next s' ∧ s.panel.configured = false ∧ s.panel.gram = [] ∧
      s.phase = .init ∧ s.seq + 1 ≠ s.tl.length) ∧
    ∃ s s' : State, s.ir = none ∧ step s = .next s' ∧ s.panel.configured = false ∧ s.panel.gram = [] ∧
      s.phase = .init ∧ s.seq + 1 = s.tl.length :=
  ⟨⟨{ two .ok with panel := Panel.unknown }, _, rfl, rfl, rfl, rfl, by decide⟩,
    ⟨initRun [.ok], _, rfl, rfl, rfl, rfl, rfl, by decide⟩,
    { one .init .ok with panel := Panel.unknown }, _, rfl, rfl, rfl, rfl, rfl, rfl⟩

theorem witness_OnlyTransactionsOfTheRequestAreIssued :
    ∃ (s s' : State) (t : Txn) (o : TxnOutcome), s.Inv ∧ step s = .next s' ∧ s'.log = s.log ++ [(t, o)] :=
  ⟨_, _, .pinRst .high, .fail, initRun_inv [.fail], rfl, rfl⟩

/-- A step of an INIT that fails, and a step that is an acceptance. -/
theorem witness_ConfiguredEqualsInitDoneUntilFailure :
    (∃ s s' : State, s.Inv ∧ s.phase = .init ∧ step s = .next s') ∧
    ∃ s s' : State, s.Inv ∧ s.panel.configured = s.initDone ∧ step s = .next s' ∧ s.phase = .idle :=
  ⟨⟨_, _, initRun_inv [.fail], rfl, rfl⟩, _, _, ready_inv 0 [⟨.init, none⟩] Image.free, rfl, rfl, rfl⟩

theorem witness_RequestsReadNoOldBufferOrLatches :
    (ready 0).nb.wf = true ∧ Memory.wf [(115199, 0xFF#8)] = true ∧ (∃ t, exec .render (ready 0) = .next t) ∧
    ∃ t, exec .clear (base 0) = .next t :=
  ⟨rfl, by decide, ⟨_, rfl⟩, _, rfl⟩

theorem witness_InitConfiguresPanel :
    ∃ s t : State, s.ir = none ∧ s.phase = .idle ∧ s.params.distinct = true ∧ exec .init s = .next t ∧
      State.AnswersOk t.tl t :=
  ⟨base 16, _, rfl, rfl, by decide, rfl, State.answersOk_of_listed _ _ [] rfl⟩

theorem witness_InitAccepted : (base 0).phase = .idle := rfl

theorem witness_SetwindowAccepted :
    (ready 0).phase = .idle ∧ (ready 0).initDone = true ∧ (239#12).toNat < (240#12).toNat ∧ (240#12).toNat ≤ 240 ∧
    (0#12).toNat < (1#12).toNat := by decide

theorem witness_InvalidWindowEndsSetwindow :
    (base 0).phase = .idle ∧
    ¬ ((0#12).toNat < (241#12).toNat ∧ (241#12).toNat ≤ 240 ∧ (0#12).toNat < (1#12).toNat ∧ (1#12).toNat ≤ 240) ∧
    ¬ ((5#12).toNat < (5#12).toNat ∧ (5#12).toNat ≤ 240 ∧ (5#12).toNat < (10#12).toNat ∧ (10#12).toNat ≤ 240) := by
  decide

theorem witness_NotInitializedEndsRequest :
    (base 0).phase = .idle ∧ (base 0).initDone = false ∧ (0#12).toNat < (240#12).toNat ∧ (240#12).toNat ≤ 240 ∧
    (base 0).image.width = 240 ∧ (base 0).image.height = 240 ∧ 3 ≤ (base 0).image.channels := by decide

theorem witness_DimensionMismatchEndsRender :
    (base 0).phase = .idle ∧ (img 239 240 3 []).width ≠ 240 ∧ (img 240 241 3 []).height ≠ 240 ∧
    (img 240 240 2 []).channels < 3 := by decide

theorem witness_RenderAccepted :
    (ready 0).phase = .idle ∧ (ready 0).initDone = true ∧ (ready 0).nb.wf = true ∧ (ready 0).image.width = 240 ∧
    (ready 0).image.height = 240 ∧ 3 ≤ (ready 0).image.channels := by decide

theorem witness_ClearAccepted :
    (ready 0).phase = .idle ∧ (ready 0).initDone = true ∧ (ready 0).nb.wf = true := by decide

theorem witness_RequestRefusedWhileBusy :
    (two .ok).phase ≠ .idle ∧ (two .ok).ir = none ∧ ∃ s', step (two .ok) = .next s' := ⟨by decide, rfl, _, rfl⟩

theorem witness_ResetIssuesPulse : State.AnswersOk resetList (base 6) := State.answersOk_of_listed _ _ [] rfl

theorem witness_TableIssuesEntriesAndTail :
    State.AnswersOk (tableList (base 10).params ++ tailList (base 10).params) (base 10) :=
  State.answersOk_of_listed _ _ [] rfl

/-- Latches with the largest window and with the last pixel. -/
def latched (xs ys xe ye : Coord) : State := (ready 5).setLatches xs ys xe ye

theorem witness_WindowArmsPanel :
    (latched 0#12 0#12 240#12 240#12).params.distinct = true ∧ (0#12).toNat < (240#12).toNat ∧
    (239#12).toNat < (240#12).toNat ∧ (240#12).toNat ≤ 240 ∧
    State.AnswersOk (windowList cfg 0#12 0#12 240#12 240#12) (latched 0#12 0#12 240#12 240#12) ∧
    State.AnswersOk (windowList cfg 239#12 239#12 240#12 240#12) (latched 239#12 239#12 240#12 240#12) :=
  ⟨by decide, by decide, by decide, by decide, State.answersOk_of_listed _ _ [] rfl,
    State.answersOk_of_listed _ _ [] rfl⟩

theorem witness_WindowOfInvalidLatchesRaises :
    ¬ ((base 0).wxs.toNat < (base 0).wxe.toNat ∧ (base 0).wxe.toNat ≤ 240 ∧
      (base 0).wys.toNat < (base 0).wye.toNat ∧ (base 0).wye.toNat ≤ 240) := by decide

theorem witness_EncodeFillsBufferFromImage :
    (base 0).nb.wf = true ∧ (base 0).image.width = 240 ∧ (base 0).image.height = 240 ∧
    3 ≤ (base 0).image.channels ∧ (img 241 240 3 []).width ≠ 240 ∧ (img 240 0 3 []).height ≠ 240 ∧
    (img 240 240 2 []).channels < 3 := by decide

theorem witness_FillSetsEveryByte : (base 0).nb.wf = true := by decide

/-- TRANSFER of NB takes 30 transactions at the default chunk size (41_frame_transfer.md R163). -/
theorem length_transferList (m : Memory) : (transferList cfg (m.readRun 0 115200)).length = 30 := by
  simp only [transferList, chunks, List.length_cons, List.length_map, List.length_range, Memory.length_readRun, ceilDiv,
    cfg]

theorem answers_transferList (m : Memory) (s : State) (h : s.transport = List.replicate 30 .ok) :
    State.AnswersOk (transferList cfg (m.readRun 0 115200)) s :=
  State.answersOk_of_listed _ _ [] (by rw [length_transferList, h, List.append_nil])

theorem witness_TransferSendsBufferInChunks :
    State.AnswersOk (transferList (base 30).params ((base 30).nb.readRun 0 115200)) (base 30) :=
  answers_transferList _ _ rfl

theorem witness_CasetSetsColumns :
    State.AnswersOk [.cmd (base 2).params.cmdCaset, .data [0x00#8, 0x00#8, 0x00#8, 0xEF#8]] (base 2) :=
  ⟨rfl, rfl, trivial⟩

theorem witness_RasetSetsRows :
    State.AnswersOk [.cmd (base 2).params.cmdRaset, .data [0x00#8, 0x00#8, 0x00#8, 0xEF#8]] (base 2) ∧
    (base 2).params.cmdRaset ≠ (base 2).params.cmdCaset :=
  ⟨⟨rfl, rfl, trivial⟩, by decide⟩

theorem witness_RamwrArmsForRanges :
    State.AnswersOk [.cmd (base 1).params.cmdRamwr] (base 1) ∧ (base 1).params.distinct = true ∧
    (base 1).panel.col = none ∧ armedPanel.row = none ∧
    (∃ p : Panel, p.col = some (0x00#8, 0xEF#8) ∧ p.row = some (0x00#8, 0xEF#8)) :=
  ⟨⟨rfl, trivial⟩, by decide, rfl, rfl, ⟨false, _, _, none, .nothing, []⟩, rfl, rfl⟩

theorem witness_SleepOutAndDisplayOnSettle :
    State.AnswersOk [.cmd (base 2).params.cmdSlpout, .sleep 120] (base 2) ∧
    State.AnswersOk [.cmd (base 2).params.cmdDispon, .sleep 20] (base 2) ∧ (base 2).params.distinct = true :=
  ⟨⟨rfl, rfl, trivial⟩, ⟨rfl, rfl, trivial⟩, by decide⟩

theorem witness_VendorCommandSentVerbatim :
    State.AnswersOk (vendorTxns 0xA2#8 [0x01#8, 0x02#8] (some 5)) (base 3) ∧
    State.AnswersOk (vendorTxns 0xA0#8 [] none) (base 3) :=
  ⟨⟨rfl, rfl, rfl, trivial⟩, rfl, trivial⟩

theorem witness_FirstFailureStopsOperation :
    (initRun [.ok, .ok, .fail]).txnsOf .reset =
      some ([.pinRst .high, .sleep 10] ++ .pinRst .low :: [.sleep 10, .pinRst .high, .sleep 10]) ∧
    State.FailsAfter [.pinRst .high, .sleep 10] (.pinRst .low) (initRun [.ok, .ok, .fail]) :=
  ⟨rfl, ⟨rfl, rfl, trivial⟩, rfl⟩

theorem witness_PackKeepsTopBits :
    (0x07#8 : Byte).extractLsb' 3 5 = (0x00#8 : Byte).extractLsb' 3 5 ∧
    (0xFF#8 : Byte).extractLsb' 2 6 = (0xFC#8 : Byte).extractLsb' 2 6 := by decide

theorem witness_ChunksSplitTheBytes :
    1 ≤ 2 ∧ [3#8] ∈ chunks [1#8, 2#8, 3#8] 2 ∧ (chunks [1#8, 2#8, 3#8] 2)[0]? = some [1#8, 2#8] ∧
    0 + 1 < (chunks [1#8, 2#8, 3#8] 2).length := by decide

theorem witness_BufferChunkCounts : (List.replicate 115200 (0x00#8 : Byte)).length = 115200 := List.length_replicate

/-- The window of V-OBS with its last two pixels to go, one byte pending: the stream that fills it and leaves an odd
byte; the same window full, and one pair more; the last pixel of the panel as a window. -/
theorem witness_ArmedWindowTakesDataInOrder :
    armedPanel.configured = true ∧ armedPanel.expect = .nothing ∧ Cells.rising 0 armedPanel.gram = true ∧
    armedPanel.armed = some ⟨10, 20, 29, 39, 0, none⟩ ∧ 10 ≤ 29 ∧ 29 < 240 ∧ 20 ≤ 39 ∧ 39 < 240 ∧ 239 ≤ 239 ∧
    398 + ([0x12#8] ++ [[0x34#8, 0xAB#8], [0xCD#8, 0x56#8]].flatten).length / 2 ≤ 20 * 20 ∧
    (400 ≤ 20 * 20 ∧ 1 ≤ [[0x12#8], [0x34#8]].flatten.length / 2 ∧
      20 * 20 < 400 + [[0x12#8], [0x34#8]].flatten.length / 2) := by decide

/-- A configured observer armed for the full panel. -/
def armedFull : State :=
  { ready 30 with panel := { Panel.unknown with configured := true, armed := some ⟨0, 0, 239, 239, 0, none⟩ } }

theorem witness_TransferPaintsArmedPanel :
    1 ≤ armedFull.params.chunkMax ∧ armedFull.panel.configured = true ∧
    armedFull.panel.armed = some ⟨0, 0, 239, 239, 0, none⟩ ∧ Cells.rising 0 armedFull.panel.gram = true ∧
    State.AnswersOk (transferList armedFull.params (armedFull.nb.readRun 0 115200)) armedFull :=
  ⟨by decide, rfl, rfl, rfl, answers_transferList _ _ rfl⟩

/-- The list of a RENDER or CLEAR takes 35 transactions at the default chunk size (95_test_vectors.md V-RENDER). -/
theorem answers_frame (m : Memory) (t : State) (h : t.transport = List.replicate 35 .ok)
    (ht : t.tl = windowList cfg 0#12 0#12 fullXe fullYe ++ transferList cfg (m.readRun 0 Config.nbSize)) :
    State.AnswersOk t.tl t := by
  have hl : t.tl.length = 35 := by
    have hw : (windowList cfg 0#12 0#12 fullXe fullYe).length = 5 := rfl
    have ht' : (transferList cfg (m.readRun 0 Config.nbSize)).length = 30 := length_transferList m
    rw [ht, List.length_append, hw, ht']
  exact State.answersOk_of_listed _ _ [] (by rw [hl, h, List.append_nil])

theorem witness_RenderPaintsImage :
    ∃ s t : State, s.Inv ∧ s.params.distinct = true ∧ 1 ≤ s.params.chunkMax ∧ s.phase = .idle ∧
      s.panel.configured = true ∧ s.image.width = 240 ∧ s.image.height = 240 ∧ 3 ≤ s.image.channels ∧
      exec .render s = .next t ∧ State.AnswersOk t.tl t := by
  have e : ∃ m t, exec .render (ready 35) = .next t ∧ t.transport = List.replicate 35 .ok ∧
      t.tl = windowList cfg 0#12 0#12 fullXe fullYe ++ transferList cfg (Memory.readRun m 0 Config.nbSize) := by
    refine ⟨Memory.writeRun [] 0 Config.nbSize (frameByte Image.free 0), ?_⟩
    rw [show exec .render (ready 35) =
      andThen ((ready 35).latch 2#64).encodeFrame fun s₂ => s₂.startFrame .render from rfl, State.encodeFrame_eq]
    simp only [andThen, startFrame_eq]
    exact ⟨_, rfl, rfl, rfl⟩
  obtain ⟨m, t, h, ht, hl⟩ := e
  exact ⟨ready 35, t, ready_inv 35 [] Image.free, by decide, by decide, rfl, rfl, rfl, rfl, by decide, h,
    answers_frame m t ht hl⟩

theorem witness_ClearPaintsWhite :
    ∃ s t : State, s.Inv ∧ s.params.distinct = true ∧ 1 ≤ s.params.chunkMax ∧ s.phase = .idle ∧
      s.panel.configured = true ∧ exec .clear s = .next t ∧ State.AnswersOk t.tl t := by
  have e : ∃ m t, exec .clear (ready 35) = .next t ∧ t.transport = List.replicate 35 .ok ∧
      t.tl = windowList cfg 0#12 0#12 fullXe fullYe ++ transferList cfg (Memory.readRun m 0 Config.nbSize) := by
    refine ⟨Memory.writeRun [] 0 Config.nbSize fun _ => fillByte, ?_⟩
    rw [show exec .clear (ready 35) =
      andThen ((ready 35).latch 3#64).fillBuffer fun s₂ => s₂.startFrame .clear from rfl, State.fillBuffer_eq]
    simp only [andThen, startFrame_eq]
    exact ⟨_, rfl, rfl, rfl⟩
  obtain ⟨m, t, h, ht, hl⟩ := e
  exact ⟨ready 35, t, ready_inv 35 [] Image.free, by decide, by decide, rfl, rfl, h, answers_frame m t ht hl⟩

end Sys2Proof.Tests
end

section
/-! PROOFS. The statements of the family 10_state.md: the invariant of every step (O18), what a step leaves alone (O22,
O23, O24), what RENDER and CLEAR do not read (O28), and the state at reset (O20, O21, O29). -/

namespace Sys2Proof.Machine

/-! ## The lists of the requests hold only issuable transactions -/

/-- Every chunk holds between 1 and `c` bytes (41_frame_transfer.md R162). -/
theorem length_of_mem_chunks (bs ch : List Byte) (c : Nat) (h : ch ∈ chunks bs c) : 1 ≤ ch.length ∧ ch.length ≤ c := by
  obtain ⟨k, hk, rfl⟩ := List.mem_map.mp h
  rw [List.mem_range, ceilDiv] at hk
  rcases Nat.eq_zero_or_pos c with rfl | hc
  · simp at hk
  · have hlt : k * c + c ≤ bs.length + c - 1 := by
      rw [← Nat.succ_mul]
      exact (Nat.le_div_iff_mul_le hc).mp hk
    simp only [List.length_take, List.length_drop]
    omega

theorem issuable_resetList (p : Params) (t : Txn) (h : t ∈ resetList) : issuable p .init t = true := by
  simp only [resetList, List.mem_cons, List.not_mem_nil, or_false] at h
  rcases h with rfl | rfl | rfl | rfl | rfl | rfl <;> rfl

theorem mem_frame {c : Byte} {ps : List Byte} {t : Txn} :
    t ∈ frame c ps ↔ t = .cmd c ∨ (t = .data ps ∧ ps ≠ []) := by
  cases ps <;> simp [frame]

theorem mem_sleepOf {d : Option Nat} {t : Txn} : t ∈ sleepOf d ↔ ∃ ms, t = .sleep ms ∧ d = some ms := by
  cases d <;> simp [sleepOf]

theorem mem_vendorTxns {c : Byte} {ps : List Byte} {d : Option Nat} {t : Txn} :
    t ∈ vendorTxns c ps d ↔ t = .cmd c ∨ (t = .data ps ∧ ps ≠ []) ∨ ∃ ms, t = .sleep ms ∧ d = some ms := by
  simp only [vendorTxns, List.mem_append, mem_frame, mem_sleepOf, or_assoc]

theorem mem_tailList {p : Params} {t : Txn} :
    t ∈ tailList p ↔ t = .cmd p.cmdSlpout ∨ t = .sleep 120 ∨ t = .cmd p.cmdDispon ∨ t = .sleep 20 := by
  simp [tailList, slpoutTxns, disponTxns, mem_frame, Config.tSlpout, Config.tDispon]

theorem mem_windowList {p : Params} {xs ys xe ye : Coord} {t : Txn} :
    t ∈ windowList p xs ys xe ye ↔
      t = .cmd p.cmdCaset ∨ t = .data (addressParams (startByte xs) (lastByte xe)) ∨
      t = .cmd p.cmdRaset ∨ t = .data (addressParams (startByte ys) (lastByte ye)) ∨ t = .cmd p.cmdRamwr := by
  simp [windowList, casetTxns, rasetTxns, ramwrTxns, mem_frame, addressParams, or_assoc]

theorem issuable_tailList (p : Params) (t : Txn) (h : t ∈ tailList p) : issuable p .init t = true := by
  rcases mem_tailList.mp h with rfl | rfl | rfl | rfl
  · simp [issuable]
  · rfl
  · simp [issuable]
  · rfl

theorem issuable_tableList (p : Params) (t : Txn) (h : t ∈ tableList p) : issuable p .init t = true := by
  obtain ⟨e, he, ht⟩ := List.mem_flatMap.mp h
  rcases mem_vendorTxns.mp ht with rfl | ⟨rfl, hne⟩ | ⟨ms, rfl, hd⟩
  · have : p.initTable.any (fun x => x.cmd == e.cmd) = true := List.any_eq_true.mpr ⟨e, he, beq_self_eq_true _⟩
    simp [issuable, this]
  · have : p.initTable.any (fun x => x.params == e.params) = true :=
      List.any_eq_true.mpr ⟨e, he, beq_self_eq_true _⟩
    simp [issuable, this, hne]
  · have : p.initTable.any (fun x => x.delay == some ms) = true :=
      List.any_eq_true.mpr ⟨e, he, beq_iff_eq.mpr hd⟩
    simp [issuable, this]

/-- Outside INIT the window sequence is issuable wherever its two parameter lists are. -/
theorem issuable_windowList {p : Params} {ph : Phase} {xs ys xe ye : Coord} (hp : ph ≠ .init)
    (hx : issuable p ph (.data (addressParams (startByte xs) (lastByte xe))) = true)
    (hy : issuable p ph (.data (addressParams (startByte ys) (lastByte ye))) = true)
    (t : Txn) (h : t ∈ windowList p xs ys xe ye) : issuable p ph t = true := by
  rcases mem_windowList.mp h with rfl | rfl | rfl | rfl | rfl
  · simp [issuable, hp]
  · exact hx
  · simp [issuable, hp]
  · exact hy
  · simp [issuable, hp]

theorem issuable_transferList {p : Params} {ph : Phase} (hp : ph = .render ∨ ph = .clear) (bs : List Byte) (t : Txn)
    (h : t ∈ transferList p bs) : issuable p ph t = true := by
  rcases List.mem_cons.mp h with rfl | hc
  · rcases hp with rfl | rfl <;> rfl
  · obtain ⟨ch, hch, rfl⟩ := List.mem_map.mp hc
    obtain ⟨hpos, hmax⟩ := length_of_mem_chunks bs ch _ hch
    have hne : ch ≠ [] := List.length_pos_iff.mp hpos
    rcases hp with rfl | rfl <;> simp [issuable, hne, hmax]

/-- The list of a RENDER or CLEAR, whose window is the full panel (41_frame_transfer.md R170, R175). -/
theorem issuable_frameList {p : Params} {ph : Phase} (hp : ph = .render ∨ ph = .clear) {xs ys xe ye : Coord}
    (hl : xs = 0#12 ∧ ys = 0#12 ∧ xe = fullXe ∧ ye = fullYe) (bs : List Byte) (t : Txn)
    (h : t ∈ windowList p xs ys xe ye ++ transferList p bs) : issuable p ph t = true := by
  obtain ⟨rfl, rfl, rfl, rfl⟩ := hl
  have hpanel : issuable p ph (.data (addressParams (startByte 0#12) (lastByte fullXe))) = true := by
    rcases hp with rfl | rfl <;> rfl
  rcases List.mem_append.mp h with hw | ht
  · exact issuable_windowList (by rcases hp with rfl | rfl <;> decide) hpanel hpanel t hw
  · exact issuable_transferList hp bs t ht

/-- The list of the running request holds only what that request may issue. -/
theorem issuable_requestList (s : State) (hl : latchesFor s.phase s.wxs s.wys s.wxe s.wye = true) (t : Txn)
    (ht : t ∈ s.requestList) : issuable s.params s.phase t = true := by
  unfold State.requestList at ht
  cases hp : s.phase with
  | idle => simp [hp] at ht
  | init =>
    simp only [hp, List.mem_append] at ht
    rcases ht with (h | h) | h
    · exact issuable_resetList _ t h
    · exact issuable_tableList _ t h
    · exact issuable_tailList _ t h
  | setwindow =>
    simp only [hp] at ht
    exact issuable_windowList (by decide) rfl rfl t ht
  | render =>
    simp only [hp, latchesFor, decide_eq_true_eq] at hl ht
    exact issuable_frameList (.inl rfl) hl _ t ht
  | clear =>
    simp only [hp, latchesFor, decide_eq_true_eq] at hl ht
    exact issuable_frameList (.inr rfl) hl _ t ht

theorem length_windowList (p : Params) (xs ys xe ye : Coord) : (windowList p xs ys xe ye).length = windowCount := rfl

/-- A running request has something to issue. -/
theorem requestList_length_pos (s : State) (hp : s.phase ≠ .idle) : 0 < s.requestList.length := by
  unfold State.requestList
  split
  · exact absurd ‹_› hp
  all_goals simp [resetList, length_windowList, windowCount]

/-! ## The invariant, state by state -/

/-- The part of the invariant that the port's registers do not enter. -/
structure State.Sound (s : State) : Prop where
  slotEmpty : s.ir = none
  armedAwaitsPixels : s.panel.armed.isSome = true → s.panel.expect = .nothing
  bufferCanonical : s.nb.wf = true
  gramCanonical : s.panel.Canonical

theorem State.Inv.sound {s : State} (h : s.Inv) : s.Sound :=
  ⟨h.slotEmpty, h.armedAwaitsPixels, h.bufferCanonical, h.gramCanonical⟩

/-- An acceptance keeps the sound part. -/
theorem Quiet.sound {s s' : State} (q : Quiet s s') (h : s.Sound) : s'.Sound where
  slotEmpty := q.ir.trans h.slotEmpty
  armedAwaitsPixels := by rw [q.panel]; exact h.armedAwaitsPixels
  bufferCanonical := q.buffer h.bufferCanonical
  gramCanonical := by rw [q.panel]; exact h.gramCanonical

/-- Every transaction keeps the sound part. -/
theorem State.Sound.issued {s : State} (h : s.Sound) (t : Txn) (o : TxnOutcome) : (s.issued t o).Sound where
  slotEmpty := h.slotEmpty
  armedAwaitsPixels := Panel.observe_armedAwaitsPixels s.params s.panel t o
  bufferCanonical := h.bufferCanonical
  gramCanonical := Panel.canonical_observe s.params s.panel t o h.gramCanonical

/-- A request that has ended leaves the invariant, where a configured observer implied INIT_DONE
(40_controller_protocol.md R145). -/
theorem Ended.inv {s s' : State} (e : Ended s s') (h : s.Sound)
    (hc : s.panel.configured = true → s.initDone = true) : s'.Inv := by
  have h' := e.toQuiet.sound h
  constructor
  case slotEmpty => exact h'.slotEmpty
  case idleEmpty => exact fun _ => ⟨e.tl, e.seq⟩
  case seqInRange => exact fun hp => absurd e.phase hp
  case subNames => rw [e.sub, e.phase]; rfl
  case listIssuable => simp [e.tl]
  case listOfRequest => exact fun hp => absurd e.phase hp
  case latchesOfRequest => rw [e.phase]; rfl
  case respIdle => exact fun _ => e.phase
  case respIsWord =>
    intro r hr
    rw [e.resp, Option.some.injEq] at hr
    rw [← hr, e.initDone]
  case initDonePhase => rw [e.phase]; rfl
  case configuredInit => rw [e.panel, e.initDone]; exact .inr hc
  case armedAwaitsPixels => exact h'.armedAwaitsPixels
  case bufferCanonical => exact h'.bufferCanonical
  case gramCanonical => exact h'.gramCanonical

/-- In every request but INIT, INIT_DONE is 1. -/
theorem init_or_initDone {ph : Phase} {d : Bool} (hp : ph ≠ .idle) (h : initDoneFor ph d = true) :
    ph = .init ∨ d = true := by
  cases ph
  case idle => exact absurd rfl hp
  case init => exact .inl rfl
  all_goals exact .inr h

/-- A running request, about to issue the transaction at SEQ of its own list, meets the invariant. -/
theorem inv_of_running {s : State} (h : s.Sound) (hp : s.phase ≠ .idle) (hseq : s.seq < s.tl.length)
    (hsub : s.sub = subAt s.phase s.seq) (htl : s.tl = s.requestList)
    (hl : latchesFor s.phase s.wxs s.wys s.wxe s.wye = true) (hr : s.resp = none)
    (hd : initDoneFor s.phase s.initDone = true) : s.Inv where
  slotEmpty := h.slotEmpty
  idleEmpty hi := absurd hi hp
  seqInRange _ := hseq
  subNames := hsub
  listIssuable t ht := issuable_requestList s hl t (htl ▸ ht)
  listOfRequest _ := htl
  latchesOfRequest := hl
  respIdle hv := by simp [hr] at hv
  respIsWord r hv := by simp [hr] at hv
  initDonePhase := hd
  configuredInit := (init_or_initDone hp hd).imp_right fun hdn _ => hdn
  armedAwaitsPixels := h.armedAwaitsPixels
  bufferCanonical := h.bufferCanonical
  gramCanonical := h.gramCanonical

theorem InitStarted.inv {s s' : State} (i : InitStarted s s') (h : s.Sound) : s'.Inv := by
  have hp : s'.phase ≠ .idle := by simp [i.phase]
  have htl : s'.tl = s'.requestList := by simp [State.requestList, i.phase, i.tl, i.params]
  refine inv_of_running (i.toQuiet.sound h) hp ?_ ?_ htl ?_ i.resp ?_
  · rw [i.seq, htl]; exact requestList_length_pos s' hp
  · rw [i.sub, i.phase, i.seq]; rfl
  · rw [i.phase]; rfl
  · rw [i.phase, i.initDone]; rfl

theorem WindowStarted.inv {s s' : State} (w : WindowStarted s s') (h : s.Sound) : s'.Inv := by
  have hp : s'.phase ≠ .idle := by rcases w.phase with hp | hp | hp <;> simp [hp]
  refine inv_of_running (w.toQuiet.sound h) hp ?_ ?_ w.tl w.latches w.resp ?_
  · rw [w.seq, w.tl]; exact requestList_length_pos s' hp
  · rw [w.sub, w.seq]; rcases w.phase with hp | hp | hp <;> rw [hp] <;> rfl
  · rw [w.initDone]; rcases w.phase with hp | hp | hp <;> rw [hp] <;> rfl

/-! ## The invariant through the execution step -/

theorem ended_respond (s : State) (st : Status) : Ended s (s.respond st) :=
  ⟨⟨rfl, rfl, rfl, rfl, rfl, rfl, rfl, rfl, id⟩, rfl, rfl, rfl, rfl, rfl, rfl⟩

/-- SEQ moves on within TL after a transaction: the request still runs. -/
theorem State.Inv.moveTo_issued {s : State} (h : s.Inv) (hp : s.phase ≠ .idle) (t : Txn) (o : TxnOutcome) (n : Nat)
    (hn : n < s.tl.length) : ((s.issued t o).moveTo n).Inv := by
  have hs := h.sound.issued t o
  refine inv_of_running ⟨hs.slotEmpty, hs.armedAwaitsPixels, hs.bufferCanonical, hs.gramCanonical⟩ hp hn rfl
    (h.listOfRequest hp) h.latchesOfRequest ?_ h.initDonePhase
  exact Option.not_isSome_iff_eq_none.mp fun hv => hp (h.respIdle hv)

/-- Completion after a transaction: an INIT configures the observer and sets INIT_DONE together, and no other
request touches either (40_controller_protocol.md R115, R145). -/
theorem State.Inv.complete_issued {s : State} (h : s.Inv) (hp : s.phase ≠ .idle) (t : Txn) (o : TxnOutcome) (n : Nat) :
    ((s.issued t o).moveTo n).complete.Inv := by
  have hs := h.sound.issued t o
  rw [State.complete_eq]
  refine (ended_respond _ _).inv ⟨hs.slotEmpty, ?_, hs.bufferCanonical, ?_⟩ ?_
  · dsimp only; split <;> exact hs.armedAwaitsPixels
  · dsimp only; split <;> exact hs.gramCanonical
  · rcases init_or_initDone hp h.initDonePhase with hi | hd
    · simp [hi]
    · simp [hd]

/-- A failed transaction leaves the observer unconfigured, so INIT_DONE may hold anything
(40_controller_protocol.md R144). -/
theorem State.Sound.raise_issued_fail {s : State} (h : s.Sound) (t : Txn) (e : Status) :
    ((s.issued t .fail).raise e).Inv := by
  have hs := h.issued t .fail
  exact (ended_respond _ _).inv ⟨hs.slotEmpty, hs.armedAwaitsPixels, hs.bufferCanonical, hs.gramCanonical⟩
    fun hc => Bool.noConfusion hc

theorem State.Inv.issueNext {s : State} (h : s.Inv) (hp : s.phase ≠ .idle) (t : Txn) : (s.issueNext t).Inv := by
  rcases State.issueNext_cases s t with ⟨-, hne, e⟩ | ⟨-, -, e⟩ | ⟨-, e⟩ <;> rw [e]
  · have := h.seqInRange hp
    exact h.moveTo_issued hp t .ok _ (by omega)
  · exact h.complete_issued hp t .ok _
  · exact h.sound.raise_issued_fail t _

/-- Settles O18: the acceptance of a request and the execution step each keep the invariant. -/
theorem stepKeepsInvariant : Obligations.StepKeepsInvariant := by
  intro s s' h hstep
  rcases step_cases s s' h.slotEmpty hstep with ⟨-, -, rfl⟩ | ⟨hp, r, rest, -, hacc⟩ | ⟨hp, t, -, rfl⟩
  · exact h
  · have hs : (s.take r rest).Sound :=
      ⟨h.slotEmpty, h.armedAwaitsPixels, h.bufferCanonical, h.gramCanonical⟩
    rcases hacc with he | hi | hw
    · exact he.inv hs (h.configuredInit.resolve_left (by simp [hp]))
    · exact hi.inv hs
    · exact hw.inv hs
  · exact h.issueNext hp t

/-! ## What a step leaves alone -/

/-- Every acceptance is quiet, however it ended. -/
theorem quiet_of_accepted {s s' : State} (h : Ended s s' ∨ InitStarted s s' ∨ WindowStarted s s') : Quiet s s' := by
  rcases h with he | hi | hw
  · exact he.toQuiet
  · exact hi.toQuiet
  · exact hw.toQuiet

/-- The execution step appends the transaction it issues, with the transport's outcome
(40_controller_protocol.md R110, R114). -/
theorem State.issueNext_log (s : State) (t : Txn) : (s.issueNext t).log = s.log ++ [(t, s.outcome t)] := by
  rcases State.issueNext_cases s t with ⟨ho, -, e⟩ | ⟨ho, -, e⟩ | ⟨ho, e⟩ <;> rw [e, ho]
  · rfl
  · rw [State.complete_eq]; rfl
  · rfl

/-- Outside INIT the execution step leaves INIT_DONE alone (10_state.md R28, 60_exceptions.md R187). -/
theorem State.issueNext_initDone (s : State) (t : Txn) (hp : s.phase ≠ .init) :
    (s.issueNext t).initDone = s.initDone := by
  rcases State.issueNext_cases s t with ⟨-, -, e⟩ | ⟨-, -, e⟩ | ⟨-, e⟩ <;> rw [e]
  · rfl
  · simp [State.complete_eq, hp]
  · simp [hp]

theorem State.issueNext_params (s : State) (t : Txn) : (s.issueNext t).params = s.params := by
  rcases State.issueNext_cases s t with ⟨-, -, e⟩ | ⟨-, -, e⟩ | ⟨-, e⟩ <;> rw [e]
  · rfl
  · rw [State.complete_eq]; rfl
  · rfl

/-- Settles O22: an acceptance leaves LOG alone, and the execution step appends its one transaction. -/
theorem logOnlyGrowsByOneEntry : Obligations.LogOnlyGrowsByOneEntry := by
  intro s s' hi h
  rcases step_cases s s' hi h with ⟨-, -, rfl⟩ | ⟨-, r, rest, -, hacc⟩ | ⟨-, t, -, rfl⟩
  · exact .inl rfl
  · exact .inl (quiet_of_accepted hacc).log
  · exact .inr ⟨_, s.issueNext_log t⟩

/-- Settles O24: the acceptances of the other requests leave INIT_DONE alone, and so do completion and failure of a
request that is no INIT. -/
theorem onlyInitWritesInitDone : Obligations.OnlyInitWritesInitDone := by
  intro s s' hi h hp hp'
  rcases step_cases s s' hi h with ⟨-, -, rfl⟩ | ⟨-, r, rest, -, he | hin | hw⟩ | ⟨-, t, -, rfl⟩
  · rfl
  · exact he.initDone
  · exact absurd hin.phase hp'
  · exact hw.initDone.trans hw.wasDone.symm
  · exact s.issueNext_initDone t hp

/-! ## The configuration -/

theorem State.issuedAll_params (s : State) (ts : List Txn) : (s.issuedAll ts).params = s.params := by
  rw [State.issuedAll_eq]

@[simp] theorem State.emitAll_params (ts : List Txn) (s : State) : (State.emitAll ts s).params = s.params := by
  rcases State.answers_cases ts s with hok | ⟨before, t, after, rfl, hf⟩
  · rw [State.emitAll_ok ts s hok, State.issuedAll_params]
  · rw [State.emitAll_fail before after t s hf, State.raise_params, State.issued_params, State.issuedAll_params]

theorem execSetwindow_params (a b c d : Coord) (s s' : State) (h : execSetwindow a b c d s = .next s') :
    s'.params = s.params := by
  obtain ⟨-, hr⟩ := whenReady_next _ _ _ h
  cases hr
  split
  · split <;> rfl
  · rfl

/-- No instruction writes the parameters. -/
theorem exec_params (i : Instr) (s s' : State) (h : exec i s = .next s') : s'.params = s.params := by
  have request : ∀ w, decodeRequest w = .ok i → s'.params = s.params := fun w hw =>
    (quiet_of_accepted (exec_request_cases i w s s' hw h).2).params
  cases i with
  | init => exact request 1#64 rfl
  | render => exact request 2#64 rfl
  | clear => exact request 3#64 rfl
  | setwindow a b c d => exact execSetwindow_params a b c d s s' h
  | window =>
    cases h
    split
    · exact State.emitAll_params _ _
    · rfl
  | encode =>
    simp only [exec, execEncode, State.encodeFrame_eq] at h
    split at h <;> cases h <;> rfl
  | fill =>
    simp only [exec, execFill, State.fillBuffer_eq] at h
    cases h
    rfl
  | transfer =>
    simp only [exec, execTransfer, State.nbRead_all] at h
    cases h
    exact State.emitAll_params _ _
  | _ => cases h; exact State.emitAll_params _ _

/-- Settles O23: neither a direct operation, nor an acceptance, nor the execution step writes the parameters. -/
theorem parametersNeverWritten : Obligations.ParametersNeverWritten := by
  intro s s' h
  cases hir : s.ir with
  | none =>
    rcases step_cases s s' hir h with ⟨-, -, rfl⟩ | ⟨-, r, rest, -, hacc⟩ | ⟨-, t, -, rfl⟩
    · rfl
    · exact (quiet_of_accepted hacc).params
    · exact State.issueNext_params s t
  | some e =>
    simp only [step, hir, State.stepDirect] at h
    split at h
    · exact exec_params _ { s with ir := none } s' h
    · cases h

/-! ## RENDER and CLEAR write all of NB before they read it -/

/-- A run written over the whole buffer reads back whole, whatever was there. -/
theorem Memory.readRun_writeRun_all (m : Memory) (f : Nat → Byte) (h : m.wf = true) :
    (m.writeRun 0 Config.nbSize f).readRun 0 Config.nbSize = (List.range Config.nbSize).map f := by
  refine List.map_congr_left fun k hk => ?_
  rw [List.mem_range] at hk
  rw [Memory.read_writeRun m 0 Config.nbSize f _ h (by omega), if_pos (by omega)]
  congr 1; omega

/-- What ENCODE leaves where the image fits (`State.encodeFrame_eq`). -/
def State.encoded (s : State) : State :=
  { s.mark .encode with draws := s.draws + 1, nb := s.nb.writeRun 0 Config.nbSize (frameByte s.image s.draws) }

/-- What FILL leaves (`State.fillBuffer_eq`). -/
def State.filled (s : State) : State :=
  { s.mark .fill with nb := s.nb.writeRun 0 Config.nbSize fun _ => fillByte }

theorem State.encoded_nb (s : State) :
    s.encoded.nb = s.nb.writeRun 0 Config.nbSize (frameByte s.image s.draws) := by
  rw [State.encoded]

theorem State.filled_nb (s : State) : s.filled.nb = s.nb.writeRun 0 Config.nbSize fun _ => fillByte := by
  rw [State.filled]

theorem whenReady_idle (s : State) (r : Result) (hp : s.phase = .idle) : s.whenReady r = r := if_pos hp

/-- RENDER by its checks, in the order of 60_exceptions.md R188. -/
theorem exec_render_eq (s : State) (hp : s.phase = .idle) :
    exec .render s =
      if s.image.fits then
        if s.initDone then (s.latch 0x0000000000000002#64).encoded.startFrame .render
        else .next ((s.latch 0x0000000000000002#64).encoded.raise .notInitialized)
      else .next ((s.latch 0x0000000000000002#64).raise .dimensionMismatch) := by
  rw [exec, execRender, whenReady_idle s _ hp, State.encodeFrame_eq]
  rfl

/-- CLEAR by its check (41_frame_transfer.md R175). -/
theorem exec_clear_eq (s : State) (hp : s.phase = .idle) :
    exec .clear s =
      if s.initDone then (s.latch 0x0000000000000003#64).filled.startFrame .clear
      else .next ((s.latch 0x0000000000000003#64).raise .notInitialized) := by
  rw [exec, execClear, whenReady_idle s _ hp, State.fillBuffer_eq]
  rfl

/-- What the host can tell of an accepted request: its list, and how it stands or ended. -/
def SameAnswer (t t' : State) : Prop :=
  t'.tl = t.tl ∧ t'.phase = t.phase ∧ t'.status = t.status ∧ t'.resp = t.resp ∧ t'.log = t.log

/-- Two states that may differ in NB and the window latches. -/
structure AgreeOffBuffer (s u : State) : Prop where
  params   : u.params = s.params
  phase    : u.phase = s.phase
  initDone : u.initDone = s.initDone
  status   : u.status = s.status
  log      : u.log = s.log
  image    : u.image = s.image
  draws    : u.draws = s.draws
  resp     : u.resp = s.resp

/-- The list of a RENDER or CLEAR depends on the parameters and on what NB reads as, and on no latch. -/
theorem AgreeOffBuffer.startFrame {s u : State} (a : AgreeOffBuffer s u) (ph : Phase)
    (hnb : u.nb.readRun 0 Config.nbSize = s.nb.readRun 0 Config.nbSize) (t : State) (h : s.startFrame ph = .next t) :
    ∃ t', u.startFrame ph = .next t' ∧ SameAnswer t t' := by
  rw [startFrame_eq] at h
  rw [startFrame_eq, a.params, hnb]
  generalize windowList s.params _ _ _ _ ++ transferList s.params _ = tl at h ⊢
  cases h
  exact ⟨_, rfl, rfl, rfl, a.status, a.resp, a.log⟩

/-- A request that ends in an error lists nothing. -/
theorem AgreeOffBuffer.raise {s u : State} (a : AgreeOffBuffer s u) (e : Status) (t : State)
    (h : (.next (s.raise e) : Result) = .next t) : ∃ t', .next (u.raise e) = (.next t' : Result) ∧ SameAnswer t t' := by
  cases h
  exact ⟨_, rfl, rfl, rfl, rfl, by simp only [State.raise_resp, a.phase, a.initDone], a.log⟩

theorem AgreeOffBuffer.latch {s u : State} (a : AgreeOffBuffer s u) (w : ReqWord) :
    AgreeOffBuffer (s.latch w) (u.latch w) :=
  ⟨a.params, a.phase, a.initDone, a.status, a.log, a.image, a.draws, rfl⟩

theorem AgreeOffBuffer.encoded {s u : State} (a : AgreeOffBuffer s u) : AgreeOffBuffer s.encoded u.encoded :=
  ⟨a.params, a.phase, a.initDone, a.status, a.log, a.image, congrArg (· + 1) a.draws, a.resp⟩

theorem AgreeOffBuffer.filled {s u : State} (a : AgreeOffBuffer s u) : AgreeOffBuffer s.filled u.filled :=
  ⟨a.params, a.phase, a.initDone, a.status, a.log, a.image, a.draws, a.resp⟩

/-- After ENCODE, NB reads as the image, whatever it held. -/
theorem AgreeOffBuffer.readRun_encoded {s u : State} (a : AgreeOffBuffer s u) (hs : s.nb.wf = true)
    (hu : u.nb.wf = true) :
    u.encoded.nb.readRun 0 Config.nbSize = s.encoded.nb.readRun 0 Config.nbSize := by
  rw [State.encoded_nb, State.encoded_nb, Memory.readRun_writeRun_all _ _ hu, Memory.readRun_writeRun_all _ _ hs,
    a.image, a.draws]

/-- After FILL, NB reads as 0xFF, whatever it held. -/
theorem readRun_filled {s u : State} (hs : s.nb.wf = true) (hu : u.nb.wf = true) :
    u.filled.nb.readRun 0 Config.nbSize = s.filled.nb.readRun 0 Config.nbSize := by
  rw [State.filled_nb, State.filled_nb, Memory.readRun_writeRun_all _ _ hu, Memory.readRun_writeRun_all _ _ hs]

theorem AgreeOffBuffer.render {s u : State} (a : AgreeOffBuffer s u) (hs : s.nb.wf = true) (hu : u.nb.wf = true)
    (t : State) (h : exec .render s = .next t) : ∃ t', exec .render u = .next t' ∧ SameAnswer t t' := by
  obtain ⟨hp, -⟩ := whenReady_next _ _ _ h
  have al := a.latch 0x0000000000000002#64
  rw [exec_render_eq s hp] at h
  rw [exec_render_eq u (a.phase.trans hp), a.image, a.initDone]
  by_cases hf : s.image.fits = true
  · rw [if_pos hf] at h ⊢
    by_cases hd : s.initDone = true
    · rw [if_pos hd] at h ⊢
      exact al.encoded.startFrame .render (al.readRun_encoded hs hu) t h
    · rw [if_neg hd] at h ⊢
      exact al.encoded.raise _ t h
  · rw [if_neg hf] at h ⊢
    exact al.raise _ t h

theorem AgreeOffBuffer.clear {s u : State} (a : AgreeOffBuffer s u) (hs : s.nb.wf = true) (hu : u.nb.wf = true)
    (t : State) (h : exec .clear s = .next t) : ∃ t', exec .clear u = .next t' ∧ SameAnswer t t' := by
  obtain ⟨hp, -⟩ := whenReady_next _ _ _ h
  have al := a.latch 0x0000000000000003#64
  rw [exec_clear_eq s hp] at h
  rw [exec_clear_eq u (a.phase.trans hp), a.initDone]
  by_cases hd : s.initDone = true
  · rw [if_pos hd] at h ⊢
    exact al.filled.startFrame .clear (readRun_filled (s := s.latch _) (u := u.latch _) hs hu) t h
  · rw [if_neg hd] at h ⊢
    exact al.raise _ t h

/-- Settles O28: RENDER and CLEAR write all of NB before they read it, and their window is the full panel's. -/
theorem requestsReadNoOldBufferOrLatches : Obligations.RequestsReadNoOldBufferOrLatches := by
  intro s t m a b c d i hi hs hm h
  have agree : AgreeOffBuffer s { s with nb := m, wxs := a, wys := b, wxe := c, wye := d } :=
    ⟨rfl, rfl, rfl, rfl, rfl, rfl, rfl, rfl⟩
  rcases hi with rfl | rfl
  · exact agree.render hs hm t h
  · exact agree.clear hs hm t h

/-! ## Reset -/

/-- Settles O20: the machine is idle, and nothing is listed, armed or known. -/
theorem resetMeetsInvariant : Obligations.ResetMeetsInvariant where
  slotEmpty := rfl
  idleEmpty _ := ⟨rfl, rfl⟩
  seqInRange hp := absurd rfl hp
  subNames := rfl
  listIssuable := fun _ ht => nomatch ht
  listOfRequest hp := absurd rfl hp
  latchesOfRequest := rfl
  respIdle _ := rfl
  respIsWord := fun _ hr => nomatch hr
  initDonePhase := rfl
  configuredInit := .inr Bool.noConfusion
  armedAwaitsPixels _ := rfl
  bufferCanonical := Memory.wf_nil
  gramCanonical := Panel.canonical_of_nil _ rfl

/-- Settles O21: each value is read off the reset state, and the idle step with no call presented waits
(70_reset_and_hazards.md R210). -/
theorem resetValues : Obligations.ResetValues := by
  have waits : step State.reset = .next State.reset := rfl
  exact ⟨rfl, rfl, rfl, rfl, rfl, rfl, rfl, rfl, rfl, rfl, rfl, rfl, rfl, rfl, rfl, rfl, rfl, rfl, rfl,
    fun _ _ => rfl, waits⟩

/-- The table at reset holds no entry that 10_state.md R21 rules out, whatever the vendor's table is. -/
theorem entryOk_of_mem_instantiated (e : TableEntry) (h : e ∈ Params.instantiated.initTable) :
    (Params.withTable []).entryOk e = true :=
  List.of_mem_filter h

/-- Settles O29: the defaults of 00_scope.md R9, with any headroom and any vendor's table less its barred entries. -/
theorem resetConfigurationIsLegal : Obligations.ResetConfigurationIsLegal := by
  refine ⟨?_, Nat.le_add_right _ _, fun e he => ?_, ?_⟩
  · show 1 ≤ Config.chunkDefault
    decide
  · have := entryOk_of_mem_instantiated e he
    simp only [Params.entryOk, Bool.and_eq_true, bne_iff_ne] at this
    exact this
  · show decide ([0x2A#8, 0x2B#8, 0x2C#8, 0x11#8, 0x29#8] : List Byte).Nodup = true
    decide

end Sys2Proof.Machine
end

section
/-! PROOFS. The family 30_encoding.md, request words: which word decodes to which request (O1), and that encoding gives
the word back (O4). -/

namespace Sys2Proof

/-! ## Request words by their fields -/

/-- A request word is its seven fields of 30_encoding.md R80, from bit 63 down. -/
theorem reqField_append (w : ReqWord) :
    reqField w 60 4 ++ reqField w 48 12 ++ reqField w 36 12 ++ reqField w 24 12 ++ reqField w 12 12 ++
      reqField w 4 8 ++ reqField w 0 4 = w := by
  unfold reqField
  iterate 6 rw [BitVec.extractLsb'_append_extractLsb'_eq_extractLsb' (by decide)]
  exact BitVec.extractLsb'_eq_self

theorem reqField_and (w v : ReqWord) (lo n : Nat) : reqField (w &&& v) lo n = reqField w lo n &&& reqField v lo n :=
  BitVec.extractLsb'_and

/-- The fixed bits of a SETWINDOW word are its fields OP, RSV0 and RSV1 (30_encoding.md R82). -/
theorem and_setwindowMask_eq_iff (w : ReqWord) :
    w &&& setwindowMask = 0x0000000000000004#64 ↔
      reqField w 0 4 = 0x4#4 ∧ reqField w 4 8 = 0x00#8 ∧ reqField w 60 4 = 0x0#4 := by
  have kept : ∀ lo n, reqField setwindowMask lo n = BitVec.allOnes n →
      reqField (w &&& setwindowMask) lo n = reqField w lo n := fun lo n hm => by
    rw [reqField_and, hm, BitVec.and_allOnes]
  have cleared : ∀ lo, reqField setwindowMask lo 12 = 0#12 → reqField (w &&& setwindowMask) lo 12 = 0#12 :=
    fun lo hm => by rw [reqField_and, hm, BitVec.and_zero]
  have op := kept 0 4 (by decide)
  have rsv0 := kept 4 8 (by decide)
  have rsv1 := kept 60 4 (by decide)
  constructor
  · intro h
    rw [← op, ← rsv0, ← rsv1, h]
    decide
  · rintro ⟨hop, h0, h1⟩
    rw [← reqField_append (w &&& setwindowMask), op, rsv0, rsv1, hop, h0, h1, cleared 48 (by decide),
      cleared 36 (by decide), cleared 24 (by decide), cleared 12 (by decide)]
    decide

/-- A word with SETWINDOW's fixed bits is the SETWINDOW word of its coordinate fields (30_encoding.md R83). -/
theorem setwindowWord_reqField (w : ReqWord) (h : w &&& setwindowMask = 0x0000000000000004#64) :
    setwindowWord (reqField w 12 12) (reqField w 24 12) (reqField w 36 12) (reqField w 48 12) = w := by
  obtain ⟨op, rsv0, rsv1⟩ := (and_setwindowMask_eq_iff w).mp h
  conv_rhs => rw [← reqField_append w, op, rsv0, rsv1]
  rfl

/-- The fields of a SETWINDOW word, from bit 0 up (30_encoding.md R80). -/
theorem reqField_setwindowWord (xs ys xe ye : Coord) :
    reqField (setwindowWord xs ys xe ye) 0 4 = 0x4#4 ∧ reqField (setwindowWord xs ys xe ye) 4 8 = 0x00#8 ∧
    reqField (setwindowWord xs ys xe ye) 12 12 = xs ∧ reqField (setwindowWord xs ys xe ye) 24 12 = ys ∧
    reqField (setwindowWord xs ys xe ye) 36 12 = xe ∧ reqField (setwindowWord xs ys xe ye) 48 12 = ye ∧
    reqField (setwindowWord xs ys xe ye) 60 4 = 0x0#4 := by
  unfold setwindowWord reqField
  refine ⟨?_, ?_, ?_, ?_, ?_, ?_, ?_⟩
  · exact BitVec.extractLsb'_append_eq_right
  · rw [BitVec.extractLsb'_append_eq_of_le (by decide)]
    exact BitVec.extractLsb'_append_eq_right
  · iterate 2 rw [BitVec.extractLsb'_append_eq_of_le (by decide)]
    exact BitVec.extractLsb'_append_eq_right
  · iterate 3 rw [BitVec.extractLsb'_append_eq_of_le (by decide)]
    exact BitVec.extractLsb'_append_eq_right
  · iterate 4 rw [BitVec.extractLsb'_append_eq_of_le (by decide)]
    exact BitVec.extractLsb'_append_eq_right
  · iterate 5 rw [BitVec.extractLsb'_append_eq_of_le (by decide)]
    exact BitVec.extractLsb'_append_eq_right
  · iterate 6 rw [BitVec.extractLsb'_append_eq_of_le (by decide)]
    exact BitVec.extractLsb'_eq_self

theorem setwindowWord_and_setwindowMask (xs ys xe ye : Coord) :
    setwindowWord xs ys xe ye &&& setwindowMask = 0x0000000000000004#64 := by
  obtain ⟨op, rsv0, -, -, -, -, rsv1⟩ := reqField_setwindowWord xs ys xe ye
  exact (and_setwindowMask_eq_iff _).mpr ⟨op, rsv0, rsv1⟩

/-! ## The decoder of request words -/

/-- The five matches of 30_encoding.md R82 exclude each other, and one of them applies: the words 1, 2, 3, the words
with SETWINDOW's fixed bits, and the rest. -/
theorem decodeRequest_cases (w : ReqWord) :
    (w = 0x0000000000000001#64 ∧ decodeRequest w = .ok .init) ∨
    (w = 0x0000000000000002#64 ∧ decodeRequest w = .ok .render) ∨
    (w = 0x0000000000000003#64 ∧ decodeRequest w = .ok .clear) ∨
    ((w ≠ 0x0000000000000001#64 ∧ w ≠ 0x0000000000000002#64 ∧ w ≠ 0x0000000000000003#64) ∧
      ((w &&& setwindowMask = 0x0000000000000004#64 ∧ decodeRequest w =
          .ok (.setwindow (reqField w 12 12) (reqField w 24 12) (reqField w 36 12) (reqField w 48 12))) ∨
        (w &&& setwindowMask ≠ 0x0000000000000004#64 ∧ decodeRequest w = .error (rejectOf w)))) := by
  unfold decodeRequest
  split
  · exact .inl ⟨‹_›, rfl⟩
  split
  · exact .inr (.inl ⟨‹_›, rfl⟩)
  split
  · exact .inr (.inr (.inl ⟨‹_›, rfl⟩))
  refine .inr (.inr (.inr ⟨⟨‹_›, ‹_›, ‹_›⟩, ?_⟩))
  split
  · exact .inl ⟨‹_›, rfl⟩
  · exact .inr ⟨‹_›, rfl⟩

/-- Every SETWINDOW word decodes to its coordinates, whatever they are (30_encoding.md R83). -/
theorem decodeRequest_setwindowWord (xs ys xe ye : Coord) :
    decodeRequest (setwindowWord xs ys xe ye) = .ok (.setwindow xs ys xe ye) := by
  have fixed := setwindowWord_and_setwindowMask xs ys xe ye
  obtain ⟨-, -, hxs, hys, hxe, hye, -⟩ := reqField_setwindowWord xs ys xe ye
  rcases decodeRequest_cases (setwindowWord xs ys xe ye) with ⟨h, -⟩ | ⟨h, -⟩ | ⟨h, -⟩ | ⟨-, ⟨-, hd⟩ | ⟨h, -⟩⟩
  · exact absurd (h ▸ fixed) (by decide)
  · exact absurd (h ▸ fixed) (by decide)
  · exact absurd (h ▸ fixed) (by decide)
  · rw [hd, hxs, hys, hxe, hye]
  · exact absurd fixed h

/-- Settles O1: in each of the five cases the decoder's answer and the match are both known. -/
theorem requestDecodeByFiveMatches : Obligations.RequestDecodeByFiveMatches := by
  intro w
  rcases decodeRequest_cases w with ⟨rfl, hd⟩ | ⟨rfl, hd⟩ | ⟨rfl, hd⟩ | ⟨⟨h1, h2, h3⟩, ⟨hm, hd⟩ | ⟨hm, hd⟩⟩
  · simp [hd]
  · simp [hd]
  · simp [hd]
  · rw [setwindowMask] at hm
    simp [hd, h1, h2, h3, hm, reqField, eq_comm]
  · rw [setwindowMask] at hm
    simp [hd, h1, h2, h3, hm]

/-- Settles O4: SETWINDOW's word is rebuilt from its fields, and the other three requests have one word each. -/
theorem encodeOfDecodedRequestIsTheWord : Obligations.EncodeOfDecodedRequestIsTheWord := by
  intro p w i hi
  rcases decodeRequest_cases w with ⟨rfl, hd⟩ | ⟨rfl, hd⟩ | ⟨rfl, hd⟩ | ⟨-, ⟨hm, hd⟩ | ⟨-, hd⟩⟩ <;> rw [hd] at hi
  · cases hi; rfl
  · cases hi; rfl
  · cases hi; rfl
  · cases hi; rw [encode, setwindowWord_reqField w hm]
  · cases hi

end Sys2Proof
end

section
/-! PROOFS. The family 30_encoding.md, panel commands: what the stream decoder takes off a stream (O5), and the round
trip of all sixteen rows (O3), with words written out from the spec (O2). -/

namespace Sys2Proof

/-! ## Frames in a stream -/

/-- What ends a panel command that has no delay: the end of the stream, a CMD or a PIN (30_encoding.md R98). -/
def EndsCommand (rest : List Txn) : Prop :=
  rest = [] ∨ (∃ c r, rest = .cmd c :: r) ∨ (∃ l r, rest = .pinRst l :: r) ∨ ∃ l r, rest = .pinDc l :: r

theorem EndsCommand.takeData {rest : List Txn} (h : EndsCommand rest) : takeData rest = ([], rest) := by
  rcases h with rfl | ⟨c, r, rfl⟩ | ⟨l, r, rfl⟩ | ⟨l, r, rfl⟩ <;> rfl

theorem EndsCommand.takeSleep {rest : List Txn} (h : EndsCommand rest) : takeSleep rest = (none, rest) := by
  rcases h with rfl | ⟨c, r, rfl⟩ | ⟨l, r, rfl⟩ | ⟨l, r, rfl⟩ <;> rfl

/-- A CMD, its DATAs and its optional SLEEP are taken whole (30_encoding.md R98; logs 9, 33). After a SLEEP anything
may follow. -/
theorem takeFrame_cmd_datas (c : Byte) (bss : List (List Byte)) (d : Option Nat) (rest : List Txn)
    (h : d = none → EndsCommand rest) :
    takeFrame (.cmd c :: (bss.map .data ++ (sleepOf d ++ rest))) = some (⟨c, bss.flatten, d⟩, rest) := by
  cases d with
  | none => simp [takeFrame, takeData_map_append, sleepOf, (h rfl).takeData, (h rfl).takeSleep]
  | some ms => simp [takeFrame, takeData_map_append, sleepOf, takeSleep]

theorem takeFrame_eq_none (ts : List Txn) (h : ∀ c r, ts ≠ .cmd c :: r) : takeFrame ts = none := by
  cases ts with
  | nil => rfl
  | cons t ts =>
    cases t with
    | cmd c => exact absurd rfl (h c ts)
    | _ => rfl

/-- The transactions of a command byte, its parameters and its delay, taken back off a stream. -/
theorem takeFrame_vendorTxns (c : Byte) (ps : List Byte) (d : Option Nat) (rest : List Txn)
    (h : d = none → EndsCommand rest) :
    takeFrame (vendorTxns c ps d ++ rest) = some (⟨c, ps, d⟩, rest) := by
  cases ps with
  | nil => simpa [vendorTxns, frame] using takeFrame_cmd_datas c [] d rest h
  | cons b bs => simpa [vendorTxns, frame] using takeFrame_cmd_datas c [b :: bs] d rest h

/-! ## The command a frame is -/

theorem Params.dispon_ne_slpout (p : Params) (h : p.distinct = true) : p.cmdDispon ≠ p.cmdSlpout := by
  intro e
  simp [Params.distinct, e] at h

/-- An instruction of the panel format is encoded as the transactions of one frame, and is the command that frame is
(30_encoding.md R96, R97). -/
theorem exists_frame_of_encode (p : Params) (i : Instr) (ts : List Txn) (hd : p.distinct = true)
    (hw : WellFormed p i = true) (h : encode p i = .frame ts) :
    ∃ f : RawFrame, ts = vendorTxns f.cmd f.params f.delay ∧ commandOf p f = i := by
  obtain ⟨rc, mc, mr, sc, sr, sm, dc, dr, dm⟩ := Machine.Params.ne_of_distinct p hd
  have ds := p.dispon_ne_slpout hd
  cases i with
  | caset s e =>
    cases h
    exact ⟨⟨p.cmdCaset, addressParams s e, none⟩, rfl, by
      simp [commandOf, namedCommand, addressOperands, addressParams]⟩
  | raset s e =>
    cases h
    exact ⟨⟨p.cmdRaset, addressParams s e, none⟩, rfl, by
      simp [commandOf, namedCommand, addressOperands, addressParams, rc]⟩
  | ramwr =>
    cases h
    exact ⟨⟨p.cmdRamwr, [], none⟩, rfl, by simp [commandOf, namedCommand, mc, mr]⟩
  | slpout =>
    cases h
    exact ⟨⟨p.cmdSlpout, [], some Config.tSlpout⟩, rfl, by simp [commandOf, namedCommand, sc, sr, sm]⟩
  | dispon =>
    cases h
    exact ⟨⟨p.cmdDispon, [], some Config.tDispon⟩, rfl, by simp [commandOf, namedCommand, dc, dr, dm, ds]⟩
  | initTable c ps d =>
    cases h
    obtain ⟨-, unnamed⟩ := Bool.and_eq_true_iff.mp hw
    exact ⟨⟨c, ps, d⟩, rfl, by simp [commandOf, Option.isNone_iff_eq_none.mp unnamed]⟩
  | _ => cases h

/-- The stream decoder takes an encoded panel command off a stream, up to what ends it. -/
theorem decodeStream_encode (p : Params) (i : Instr) (ts rest : List Txn) (hd : p.distinct = true)
    (hw : WellFormed p i = true) (h : encode p i = .frame ts) (hr : EndsCommand rest) :
    decodeStream p (ts ++ rest) = .ok (i, rest) := by
  obtain ⟨f, rfl, hf⟩ := exists_frame_of_encode p i ts hd hw h
  rw [decodeStream, takeFrame_vendorTxns f.cmd f.params f.delay rest fun _ => hr]
  exact congrArg (fun j => Except.ok (j, rest)) hf

theorem decodeFrame_encode (p : Params) (i : Instr) (ts : List Txn) (hd : p.distinct = true)
    (hw : WellFormed p i = true) (h : encode p i = .frame ts) : decodeFrame p ts = .ok i := by
  have hs := decodeStream_encode p i ts [] hd hw h (.inl rfl)
  rw [List.append_nil] at hs
  rw [decodeFrame, hs]

/-- Settles O3: the words of the requests and the SUB codes have one reading each, and a panel command is taken whole
off the stream of its own transactions. -/
theorem decodeOfEncodeIsTheInstruction : Obligations.DecodeOfEncodeIsTheInstruction := by
  intro p i hd hw
  cases i with
  | setwindow xs ys xe ye => exact decodeRequest_setwindowWord xs ys xe ye
  | init | render | clear => rfl
  | window | reset | encode | transfer | fill | table => rfl
  | caset | raset | ramwr | slpout | dispon | initTable => exact decodeFrame_encode p _ _ hd hw rfl

/-- Settles O5: an encoded command is one frame, and a frame ends at the first record that is no DATA. -/
theorem streamDecoderTakesOneCommand : Obligations.StreamDecoderTakesOneCommand := by
  refine ⟨decodeStream_encode, fun c bss rest => ⟨fun hr => ?_, ?_⟩, takeFrame_eq_none⟩
  · exact takeFrame_cmd_datas c bss none rest fun _ => hr
  · rintro ms r rfl
    exact takeFrame_cmd_datas c bss (some ms) r nofun

/-- Settles O2: each word is decoded by evaluation. -/
theorem specWordsDecode : Obligations.SpecWordsDecode := by
  refine ⟨?_, ?_, ?_, ?_, ?_, ?_, ?_, ?_⟩ <;> decide

end Sys2Proof
end

section
/-! PROOFS. The family 30_encoding.md, the machine: the response word (O53), what a step makes of a call at the port
(O6, O8), what a busy port leaves alone (O38), and what a running request issues (O19). -/

namespace Sys2Proof.Machine

/-! ## The response word -/

/-- The three fields of a response word, from bit 7 down (30_encoding.md R84). -/
theorem respWord_eq_append (d : Bool) (st : Status) : respWord d st = 0x0#4 ++ BitVec.ofBool d ++ st.code := by
  cases d <;> cases st <;> rfl

theorem Status.ofCode?_code (st : Status) : Status.ofCode? st.code = some st := by cases st <;> rfl

theorem Status.code_le (st : Status) : st.code.toNat ≤ 5 := by cases st <;> decide

/-- Settles O53: each field is read off the word where it was put. -/
theorem responseWordFields : Obligations.ResponseWordFields := by
  intro d st
  have code : (respWord d st).extractLsb' 0 3 = st.code := by
    rw [respWord_eq_append]
    exact BitVec.extractLsb'_append_eq_right
  have initDone : (respWord d st).getLsbD 3 = d := by
    rw [respWord_eq_append, BitVec.getLsbD_append, BitVec.getLsbD_append]
    simp
  have rsv : (respWord d st).extractLsb' 4 4 = 0#4 := by
    rw [respWord_eq_append]
    iterate 2 rw [BitVec.extractLsb'_append_eq_of_le (by decide)]
    exact BitVec.extractLsb'_eq_self
  refine ⟨code, initDone, rsv, ?_, st.code_le⟩
  rw [readResponse, if_pos rsv, code, initDone, st.ofCode?_code]
  rfl

/-! ## Calls at the port -/

/-- An idle port accepts a presented call that has a word, and the word's meaning runs (40_controller_protocol.md
R113). -/
theorem step_presented_word (s : State) (r : HostRequest) (rest : List HostRequest) (w : ReqWord) (i : Instr)
    (hi : s.ir = none) (hp : s.phase = .idle) (hh : s.host = r :: rest) (hw : r.call.toWord? = some w)
    (hd : decodeRequest w = .ok i) : step s = exec i (s.take r rest) := by
  simp only [step, hi, hp, if_true, State.stepIdle, hh, hw, State.accept, hd]

/-- An idle port refuses a presented call that has no word (30_encoding.md R83). -/
theorem step_presented_none (s : State) (r : HostRequest) (rest : List HostRequest)
    (hi : s.ir = none) (hp : s.phase = .idle) (hh : s.host = r :: rest) (hw : r.call.toWord? = none) :
    step s = .refused .unencodableCoordinate := by
  simp only [step, hi, hp, if_true, State.stepIdle, hh, hw]

theorem step_direct (s : State) (e : Encoded) (i : Instr) (hi : s.ir = some e) (hd : decode s.params e = .ok i) :
    step s = exec i { s with ir := none } := by
  simp only [step, hi, State.stepDirect, hd]

theorem encodableCoord_iff (v : Int) : encodableCoord v = true ↔ 0 ≤ v ∧ v ≤ 4095 := by
  simp [encodableCoord]

theorem toNat_coordOf (v : Int) (h : 0 ≤ v ∧ v ≤ 4095) : ((coordOf v).toNat : Int) = v := by
  rw [coordOf, BitVec.toNat_ofNat]
  omega

/-- A SETWINDOW call has a word exactly where its four coordinates have a field (30_encoding.md R83). -/
theorem toWord?_setWindow (xs ys xe ye : Int) :
    (HostCall.setWindow xs ys xe ye).toWord? =
      if (0 ≤ xs ∧ xs ≤ 4095) ∧ (0 ≤ ys ∧ ys ≤ 4095) ∧ (0 ≤ xe ∧ xe ≤ 4095) ∧ (0 ≤ ye ∧ ye ≤ 4095) then
        some (setwindowWord (coordOf xs) (coordOf ys) (coordOf xe) (coordOf ye))
      else none := by
  simp only [HostCall.toWord?, Bool.and_eq_true, encodableCoord_iff, and_assoc]

/-- Settles O6: the call has no word, or the word of its coordinates. -/
theorem unencodableCoordinateRefused : Obligations.UnencodableCoordinateRefused := by
  intro s rest img xs ys xe ye hi hp hh
  have word := toWord?_setWindow xs ys xe ye
  constructor
  · intro out
    rw [if_neg (by omega)] at word
    exact step_presented_none s _ rest hi hp hh word
  · rintro ⟨hxs, hxs', hys, hys', hxe, hxe', hye, hye'⟩
    rw [if_pos ⟨⟨hxs, hxs'⟩, ⟨hys, hys'⟩, ⟨hxe, hxe'⟩, hye, hye'⟩] at word
    exact ⟨_, _, _, _, toNat_coordOf xs ⟨hxs, hxs'⟩, toNat_coordOf ys ⟨hys, hys'⟩, toNat_coordOf xe ⟨hxe, hxe'⟩,
      toNat_coordOf ye ⟨hye, hye'⟩, step_presented_word s _ rest _ _ hi hp hh word (decodeRequest_setwindowWord ..)⟩

/-- The decoder reads the command bytes alone of the parameters, so the table does not matter to it. -/
theorem decode_withTable (table : List TableEntry) (e : Encoded) :
    decode (Params.withTable table) e = decode (Params.withTable []) e := by
  cases e <;> rfl

theorem decode_reset_params (e : Encoded) : decode State.reset.params e = decode (Params.withTable []) e :=
  decode_withTable _ e

theorem decode_of_decodeTableWord (nbits w : Nat) (i : Instr) (h : decodeTableWord nbits w = some i) :
    decode (Params.withTable []) (tableWord nbits w) = .ok i := by
  unfold decodeTableWord at h
  cases hd : decode (Params.withTable []) (tableWord nbits w) with
  | ok j => rw [hd] at h; cases h; rfl
  | error r => rw [hd] at h; cases h

/-- Settles O8: a request word is the call the host presents to the ready port, and any other form is in the slot. -/
theorem tableWordRunsAfterReset : Obligations.TableWordRunsAfterReset := by
  intro nbits w i h
  have hd := decode_of_decodeTableWord nbits w i h
  unfold State.withFetchWord
  cases hw : tableWord nbits w <;> rw [hw] at hd
  case request r => exact step_presented_word _ ⟨.word r, none⟩ [] r i rfl rfl rfl rfl hd
  case subop c => exact step_direct _ (.subop c) i rfl hd
  case frame ts => exact step_direct _ (.frame ts) i rfl ((decode_reset_params _).trans hd)

/-! ## While a request runs -/

/-- The execution step leaves the request port alone: the host's calls, REQ and the presented image (10_state.md
R36). -/
theorem State.issueNext_port (s : State) (t : Txn) :
    (s.issueNext t).host = s.host ∧ (s.issueNext t).req = s.req ∧ (s.issueNext t).image = s.image := by
  rcases State.issueNext_cases s t with ⟨-, -, e⟩ | ⟨-, -, e⟩ | ⟨-, e⟩ <;> rw [e]
  · exact ⟨rfl, rfl, rfl⟩
  · rw [State.complete_eq]; exact ⟨rfl, rfl, rfl⟩
  · exact ⟨rfl, rfl, rfl⟩

theorem whenReady_busy (s : State) (r : Result) (hp : s.phase ≠ .idle) :
    s.whenReady r = .refused .requestWhileBusy := if_neg hp

/-- Settles O38: a busy port only issues, and each request's meaning asks whether the port is ready. -/
theorem requestRefusedWhileBusy : Obligations.RequestRefusedWhileBusy := by
  intro s xs ys xe ye hp
  refine ⟨fun s' hi h => ?_, whenReady_busy s _ hp, whenReady_busy s _ hp, whenReady_busy s _ hp,
    whenReady_busy s _ hp⟩
  rcases step_cases s s' hi h with ⟨hidle, -⟩ | ⟨hidle, -⟩ | ⟨-, t, -, rfl⟩
  · exact absurd hidle hp
  · exact absurd hidle hp
  · exact s.issueNext_port t

/-- Settles O19: waiting and acceptance append nothing, and the execution step appends the transaction at SEQ of TL,
which the invariant says is the request's own list. -/
theorem onlyTransactionsOfTheRequestAreIssued : Obligations.OnlyTransactionsOfTheRequestAreIssued := by
  intro s s' t o h hstep hlog
  rcases step_cases s s' h.slotEmpty hstep with ⟨-, -, rfl⟩ | ⟨-, r, rest, -, hacc⟩ | ⟨hp, u, hu, rfl⟩
  · simp at hlog
  · rw [(quiet_of_accepted hacc).log, State.take_log] at hlog
    simp at hlog
  · rw [State.issueNext_log] at hlog
    cases List.append_cancel_left hlog
    exact ⟨hp, h.listOfRequest hp ▸ hu, h.listIssuable t (List.mem_of_getElem? hu)⟩

end Sys2Proof.Machine
end

section
/-! PROOFS. The family 40_controller_protocol.md, operations: an operation made of transactions by its list, answered OK
or failing part way (O51, O13), and what each one leaves: the reset pulse (O39), the table (O40), the window sequence
(O41, O42) and the panel commands (O46 to O50). -/

namespace Sys2Proof.Machine

/-! ## An operation by its list -/

/-- What SUB names while an operation issues its transactions (10_state.md R26); a panel command leaves it alone. -/
def State.subOf (s : State) : Instr → Sub
  | .window => .window
  | .reset => .reset
  | .transfer => .transfer
  | .table => .table
  | _ => s.sub

/-- An operation made of transactions issues its list, up to the first failure (log 8). -/
theorem exec_of_txnsOf {s : State} {i : Instr} {ts : List Txn} (h : s.txnsOf i = some ts) :
    exec i s = .next (State.emitAll ts (s.mark (s.subOf i))) := by
  cases i with
  | init | render | clear | setwindow | encode | fill => cases h
  | window =>
    by_cases hw : windowOk s.wxs s.wys s.wxe s.wye = true
    · rw [State.txnsOf, if_pos hw] at h
      cases h
      rw [exec, execWindow, if_pos hw]
      rfl
    · rw [State.txnsOf, if_neg hw] at h
      cases h
  | transfer =>
    cases h
    rw [exec, execTransfer, State.nbRead_all]
    rfl
  | _ => cases h; rfl

/-- With OK answers the whole list is issued. -/
theorem exec_ok {s : State} {i : Instr} {ts : List Txn} (h : s.txnsOf i = some ts) (ha : State.AnswersOk ts s) :
    exec i s = .next ((s.issuedAll ts).mark (s.subOf i)) := by
  rw [exec_of_txnsOf h, State.emitAll_ok _ _ ((State.answersOk_mark s _ ts).mpr ha), State.issuedAll_mark]

/-- At the first failure the operation ends with TransportFailure, which clears SUB. -/
theorem exec_fail {s : State} {i : Instr} {before after : List Txn} {t : Txn}
    (h : s.txnsOf i = some (before ++ t :: after)) (hf : State.FailsAfter before t s) :
    exec i s = .next (((s.issuedAll before).issued t .fail).raise .transportFailure) := by
  rw [exec_of_txnsOf h, State.emitAll_fail _ _ _ _ ((State.failsAfter_mark s _ before t).mpr hf),
    State.issuedAll_mark]
  rfl

/-- With OK answers an operation writes SUB, LOG, the shadows, the observer and the transport's answers. -/
theorem exec_ok_eq {s : State} {i : Instr} {ts : List Txn} (h : s.txnsOf i = some ts) (ha : State.AnswersOk ts s) :
    exec i s = .next { s with
      sub := s.subOf i
      transport := s.transport.drop ts.length
      log := s.log ++ okEntries ts
      dcShadow := ts.foldl (fun d t => nextDcShadow d t .ok) s.dcShadow
      rstShadow := ts.foldl (fun r t => nextRstShadow r t .ok) s.rstShadow
      panel := s.panel.observeAll s.params (okEntries ts) } := by
  rw [exec_ok h ha, State.issuedAll_eq]
  rfl

/-- A FAIL in one form: the entry, what R112 makes of the shadows, and the error (60_exceptions.md R184, R187). -/
theorem State.raise_issued_fail_eq (s : State) (t : Txn) :
    (s.issued t .fail).raise .transportFailure = { s with
      phase := .idle
      sub := .none
      tl := []
      seq := 0
      status := .transportFailure
      initDone := if s.phase = .init then false else s.initDone
      resp := some (respWord (if s.phase = .init then false else s.initDone) .transportFailure)
      transport := s.transport.tail
      log := s.log ++ [(t, .fail)]
      dcShadow := nextDcShadow s.dcShadow t .fail
      rstShadow := nextRstShadow s.rstShadow t .fail
      panel := Panel.unknown } := rfl

/-- Settles O51: the transactions before the failed one are issued as OK ones, then the failed one, and the error
returns the sequencer to idle. -/
theorem firstFailureStopsOperation : Obligations.FirstFailureStopsOperation := by
  intro s i before after t h hf
  rw [exec_fail h hf, State.raise_issued_fail_eq, State.issuedAll_eq, List.tail_drop]
  rfl

/-- Settles O13: each kind of transaction with its outcome is one case of R112. -/
theorem shadowsFollowTransactions : Obligations.ShadowsFollowTransactions := by
  intro d r b bs l ms o
  exact ⟨rfl, rfl, rfl, rfl, rfl, rfl, rfl, rfl, rfl, rfl, rfl, rfl, rfl, rfl, rfl, rfl⟩

/-- The reset line moves only by a PIN(RST) (40_controller_protocol.md R112). -/
theorem foldl_nextRstShadow_of_no_pinRst (ts : List Txn) (h : ∀ l, .pinRst l ∉ ts) (r : RstShadow) :
    ts.foldl (fun r t => nextRstShadow r t .ok) r = r := by
  induction ts generalizing r with
  | nil => rfl
  | cons t ts ih =>
    have ht : nextRstShadow r t .ok = r := by
      cases t with
      | pinRst l => exact absurd (List.mem_cons_self ..) (h l)
      | _ => rfl
    rw [List.foldl_cons, ht]
    exact ih (fun l hl => h l (List.mem_cons_of_mem _ hl)) r

/-! ## The observer over the panel commands -/

theorem Panel.observeAll_append (c : Params) (p : Panel) (es fs : List LogEntry) :
    p.observeAll c (es ++ fs) = (p.observeAll c es).observeAll c fs := List.foldl_append

theorem Panel.observeAll_casetTxns (c : Params) (p : Panel) (a b : Byte) :
    p.observeAll c (okEntries (casetTxns c a b)) =
      { p with col := some (a, b), armed := none, expect := .nothing } := by
  have hcmd : p.observe c (.cmd c.cmdCaset) .ok = { p with col := none, armed := none, expect := .col } := if_pos rfl
  show (p.observe c (.cmd c.cmdCaset) .ok).observe c (.data (addressParams a b)) .ok = _
  rw [hcmd]
  rfl

theorem Panel.observeAll_rasetTxns (c : Params) (p : Panel) (a b : Byte) (h : c.cmdRaset ≠ c.cmdCaset) :
    p.observeAll c (okEntries (rasetTxns c a b)) =
      { p with row := some (a, b), armed := none, expect := .nothing } := by
  have hcmd : p.observe c (.cmd c.cmdRaset) .ok = { p with row := none, armed := none, expect := .row } :=
    (if_neg h).trans (if_pos rfl)
  show (p.observe c (.cmd c.cmdRaset) .ok).observe c (.data (addressParams a b)) .ok = _
  rw [hcmd]
  rfl

theorem Panel.observeAll_ramwrTxns (c : Params) (p : Panel) (hd : c.distinct = true) :
    p.observeAll c (okEntries (ramwrTxns c)) = p.arm := by
  obtain ⟨-, hcol, hrow, -⟩ := Params.ne_of_distinct c hd
  exact (if_neg hcol).trans ((if_neg hrow).trans (if_pos rfl))

/-- A command byte that is none of the three window commands, and a delay after it: the observer is no longer armed
and every pixel is UNKNOWN (40_controller_protocol.md R141). -/
theorem Panel.observeAll_settle (c : Params) (p : Panel) (b : Byte) (ms : Nat) (hcol : b ≠ c.cmdCaset)
    (hrow : b ≠ c.cmdRaset) (hram : b ≠ c.cmdRamwr) :
    p.observeAll c [(.cmd b, .ok), (.sleep ms, .ok)] = { p with armed := none, expect := .nothing, gram := [] } := by
  have hcmd : p.observe c (.cmd b) .ok = Panel.forget { p with armed := none, expect := .nothing } :=
    (if_neg hcol).trans ((if_neg hrow).trans (if_neg hram))
  show (p.observe c (.cmd b) .ok).observe c (.sleep ms) .ok = _
  rw [hcmd]
  rfl

theorem Panel.arm_some (p : Panel) {x0 x1 y0 y1 : Byte} (hc : p.col = some (x0, x1)) (hr : p.row = some (y0, y1)) :
    p.arm = { p with armed := some ⟨x0.toNat, y0.toNat, x1.toNat, y1.toNat, 0, none⟩, expect := .nothing } := by
  simp only [Panel.arm, hc, hr]

theorem Panel.arm_none (p : Panel) (h : p.col = none ∨ p.row = none) :
    p.arm = { p with armed := none, expect := .nothing, gram := [] } := by
  unfold Panel.arm
  split
  · next hc hr => simp [hc, hr] at h
  · rfl

/-- The window sequence of a valid window arms the observer for it (40_controller_protocol.md R130, R141). -/
theorem Panel.observeAll_windowList (c : Params) (p : Panel) (xs ys xe ye : Coord) (hd : c.distinct = true)
    (hw : windowOk xs ys xe ye = true) :
    p.observeAll c (okEntries (windowList c xs ys xe ye)) = { p with
      col := some (BitVec.ofNat 8 xs.toNat, BitVec.ofNat 8 (xe.toNat - 1))
      row := some (BitVec.ofNat 8 ys.toNat, BitVec.ofNat 8 (ye.toNat - 1))
      armed := some ⟨xs.toNat, ys.toNat, xe.toNat - 1, ye.toNat - 1, 0, none⟩
      expect := .nothing } := by
  obtain ⟨hx, hx', hy, hy'⟩ := (windowOk_iff xs ys xe ye).mp hw
  have byte : ∀ n, n < 240 → (BitVec.ofNat 8 n).toNat = n := fun n hn => by
    rw [BitVec.toNat_ofNat, Nat.mod_eq_of_lt (by omega)]
  rw [windowList, okEntries_append, okEntries_append, Panel.observeAll_append, Panel.observeAll_append,
    Panel.observeAll_casetTxns, Panel.observeAll_rasetTxns c _ _ _ (Params.ne_of_distinct c hd).1,
    Panel.observeAll_ramwrTxns c _ hd, Panel.arm_some _ rfl rfl, startByte_eq, startByte_eq,
    lastByte_eq xe (by omega), lastByte_eq ye (by omega), byte _ (by omega), byte _ (by omega), byte _ (by omega),
    byte _ (by omega)]

/-! ## Panel commands -/

/-- Settles O46: the observer reads the byte as CASET whatever the other command bytes are. -/
theorem casetSetsColumns : Obligations.CasetSetsColumns := by
  intro s a b ha
  rw [exec_ok_eq (ts := casetTxns s.params a b) rfl ha, Panel.observeAll_casetTxns]
  rfl

/-- Settles O47: where RASET's byte is not CASET's, the observer reads the command as RASET. -/
theorem rasetSetsRows : Obligations.RasetSetsRows := by
  intro s a b ha
  exact ⟨_, exec_ok_eq (ts := rasetTxns s.params a b) rfl ha, rfl, fun h => Panel.observeAll_rasetTxns _ _ a b h⟩

/-- Settles O48: with both ranges the observer is armed for them, and with one missing it forgets. -/
theorem ramwrArmsForRanges : Obligations.RamwrArmsForRanges := by
  intro s ha
  refine ⟨_, exec_ok_eq (ts := ramwrTxns s.params) rfl ha, rfl, fun hd => ?_⟩
  dsimp only
  rw [Panel.observeAll_ramwrTxns _ _ hd]
  exact ⟨fun _ _ _ _ hc hr => Panel.arm_some _ hc hr, Panel.arm_none _⟩

/-- Settles O49: neither byte is one of the three window commands. -/
theorem sleepOutAndDisplayOnSettle : Obligations.SleepOutAndDisplayOnSettle := by
  intro s
  constructor
  · intro ha
    refine ⟨_, exec_ok_eq (ts := slpoutTxns s.params) rfl ha, rfl, fun hd => ?_⟩
    obtain ⟨-, -, -, hcol, hrow, hram, -⟩ := Params.ne_of_distinct s.params hd
    exact Panel.observeAll_settle _ _ _ 120 hcol hrow hram
  · intro ha
    refine ⟨_, exec_ok_eq (ts := disponTxns s.params) rfl ha, rfl, fun hd => ?_⟩
    obtain ⟨-, -, -, -, -, -, hcol, hrow, hram⟩ := Params.ne_of_distinct s.params hd
    exact Panel.observeAll_settle _ _ _ 20 hcol hrow hram

theorem length_vendorTxns (c : Byte) (ps : List Byte) (d : Option Nat) :
    (vendorTxns c ps d).length = TableEntry.count ⟨c, ps, d⟩ := by
  cases ps <;> cases d <;> rfl

theorem pinRst_not_mem_vendorTxns (c : Byte) (ps : List Byte) (d : Option Nat) (l : Level) :
    .pinRst l ∉ vendorTxns c ps d := by
  simp [mem_vendorTxns]

/-- Settles O50: the list is read off the vendor command's form, with and without parameters and delay. -/
theorem vendorCommandSentVerbatim : Obligations.VendorCommandSentVerbatim := by
  intro s c ps d ha
  have hdc : (vendorTxns c ps d).foldl (fun d t => nextDcShadow d t .ok) s.dcShadow =
      if ps = [] then .command else .data := by
    cases ps <;> cases d <;> rfl
  have hlog : okEntries (vendorTxns c ps d) =
      (.cmd c, .ok) :: ((if ps = [] then [] else [(.data ps, .ok)]) ++ okEntries (sleepOf d)) := by
    cases ps <;> rfl
  refine ⟨_, exec_ok_eq (i := .initTable c ps d) rfl ha, ?_, ?_⟩
  · rw [hdc, length_vendorTxns, foldl_nextRstShadow_of_no_pinRst _ (pinRst_not_mem_vendorTxns c ps d)]
    rfl
  · rw [hlog]
    cases d <;> rfl

/-! ## Sub-operations -/

/-- Settles O39: the observer forgets at PIN(RST, LOW), and the line ends HIGH. -/
theorem resetIssuesPulse : Obligations.ResetIssuesPulse := by
  intro s ha
  rw [exec_ok_eq (i := .reset) rfl ha]
  rfl

/-- The table's list spelled out (40_controller_protocol.md R122). -/
theorem tableList_eq (p : Params) : tableList p = p.initTable.flatMap (fun e =>
    [.cmd e.cmd] ++ (if 0 < e.params.length then [.data e.params] else []) ++
      (match e.delay with
        | some ms => [.sleep ms]
        | none => [])) :=
  congrArg p.initTable.flatMap (funext fun e => vendorTxns_eq e.cmd e.params e.delay)

theorem length_tableList (p : Params) : (tableList p).length = (p.initTable.map TableEntry.count).sum := by
  simp only [tableList, List.length_flatMap, length_vendorTxns]

/-- The table and the tail do not move the reset line. -/
theorem pinRst_not_mem_table_tail (p : Params) (l : Level) : .pinRst l ∉ tableList p ++ tailList p := by
  simp [tableList, mem_tailList, mem_vendorTxns]

/-- The tail ends with a command, after whatever came before it. -/
theorem foldl_nextDcShadow_tail (p : Params) (ts : List Txn) (d : DcShadow) :
    (ts ++ tailList p).foldl (fun d t => nextDcShadow d t .ok) d = .command := by
  rw [List.foldl_append]
  rfl

/-- Settles O40: the tail's last command leaves DC_SHADOW at COMMAND, and no entry moves the reset line. -/
theorem tableIssuesEntriesAndTail : Obligations.TableIssuesEntriesAndTail := by
  intro s ha
  rw [exec_ok_eq (i := .table) rfl ha, foldl_nextDcShadow_tail,
    foldl_nextRstShadow_of_no_pinRst _ (pinRst_not_mem_table_tail s.params), List.length_append, length_tableList,
    tableList_eq]
  rfl

/-- Settles O41: the latches pass the window check, so WINDOW has a list. -/
theorem windowArmsPanel : Obligations.WindowArmsPanel := by
  intro s hx hx' hy hy' ha
  have hw := (windowOk_iff s.wxs s.wys s.wxe s.wye).mpr ⟨hx, hx', hy, hy'⟩
  refine ⟨_, exec_ok_eq (i := .window) (if_pos hw) ha, ?_, fun hd => Panel.observeAll_windowList _ _ _ _ _ _ hd hw⟩
  rw [← windowList_eq _ _ _ _ _ (by omega) (by omega)]
  rfl

/-- Settles O42: latches that fail the window check raise before any transaction. -/
theorem windowOfInvalidLatchesRaises : Obligations.WindowOfInvalidLatchesRaises := by
  intro s h
  rw [← windowOk_iff] at h
  rw [exec, execWindow, if_neg h]
  rfl

end Sys2Proof.Machine
end

section
/-! PROOFS. The family 40_controller_protocol.md, pixel data: what DATA does to an observer armed for a window (O56),
and that TRANSFER fills one armed for the full panel (O57). -/

namespace Sys2Proof.Machine

/-! ## Any window -/

/-- A pending byte is a first byte already seen (40_controller_protocol.md R142). -/
theorem Panel.foldl_byte_pending (p : Panel) (a : Armed) (h : p.armed = some a) :
    a.hi.toList.foldl Panel.byte { p with armed := some { a with hi := none } } = p := by
  obtain ⟨x0, y0, x1, y1, j, hi⟩ := a
  cases hi with
  | none => simp [← h]
  | some b => simp [Panel.byte, ← h]

/-- Two pixels of the panel have different places. -/
theorem gramPlace_inj {x y x' y' : Nat} (hx : x < 240) (hx' : x' < 240) (h : gramPlace x y = gramPlace x' y') :
    x = x' ∧ y = y' := by
  simp only [gramPlace, Config.width] at h
  omega

/-- Settles O56: the pending byte and the DATAs are one stream of bytes to an observer with none pending. -/
theorem armedWindowTakesDataInOrder : Obligations.ArmedWindowTakesDataInOrder := by
  intro c p x0 y0 x1 y1 j hi bss hc he ha hx hx1 hy hy1 hr stream n w h q hs hn hw hh hq
  have hq' : q = stream.foldl Panel.byte { p with armed := some ⟨x0, y0, x1, y1, j, none⟩ } := by
    rw [hq, Panel.observeAll_data c bss p (by simp [ha]) he, hs, List.foldl_append]
    exact congrArg (bss.flatten.foldl Panel.byte) (Panel.foldl_byte_pending p _ ha).symm
  have ex : x1 = x0 + w - 1 := by omega
  have ey : y1 = y0 + h - 1 := by omega
  obtain ⟨armed, fits, overrun, -⟩ := Panel.foldl_byte_window x0 y0 w h (by omega) (by omega) (by omega) (by omega)
    n j stream hn { p with armed := some ⟨x0, y0, x1, y1, j, none⟩ } hc (by rw [← ex, ← ey]) hr
  rw [← hq', ← ex, ← ey] at armed
  rw [← hq'] at fits overrun
  refine ⟨armed, fun hj => ?_, fun h1 hj x y => ?_⟩
  · obtain ⟨written, kept⟩ := fits hj
    refine ⟨written, fun x y hx' _ hne => kept _ fun k hk heq => hne k hk (gramPlace_inj hx' ?_ heq)⟩
    have := Nat.mod_lt (j + k) (show 0 < w by omega)
    omega
  · rw [Panel.pixel, overrun h1 hj]
    rfl

/-! ## All of NB to the full panel -/

/-- The first `n` chunks hold the first `n * c` bytes in order. -/
theorem flatten_map_chunk (bs : List Byte) (c n : Nat) :
    ((List.range n).map fun k => (bs.drop (k * c)).take c).flatten = bs.take (n * c) := by
  induction n with
  | zero => simp
  | succ n ih => simp [List.range_succ, ih, Nat.succ_mul, List.take_add]

/-- The chunks in order are the bytes (41_frame_transfer.md R162). -/
theorem flatten_chunks (bs : List Byte) (c : Nat) (hc : 1 ≤ c) : (chunks bs c).flatten = bs := by
  have enough : bs.length ≤ ceilDiv bs.length c * c := by
    have hdiv := Nat.div_add_mod (bs.length + c - 1) c
    have hmod := Nat.mod_lt (bs.length + c - 1) hc
    rw [ceilDiv, Nat.mul_comm]
    omega
  rw [chunks, flatten_map_chunk, List.take_of_length_le enough]

/-- TRANSFER's transactions to an armed observer are its bytes, however they are cut into chunks
(41_frame_transfer.md R161, R164). -/
theorem Panel.observeAll_transferList (c : Params) (p : Panel) (bs : List Byte) (hc : 1 ≤ c.chunkMax)
    (ha : p.armed.isSome = true) :
    p.observeAll c (okEntries (transferList c bs)) = bs.foldl Panel.byte { p with expect := .nothing } := by
  show ({ p with expect := .nothing } : Panel).observeAll c (okEntries ((chunks bs c.chunkMax).map .data)) = _
  rw [Panel.observeAll_data c _ { p with expect := .nothing } ha rfl, flatten_chunks bs _ hc]

/-- All of NB to an observer armed at pixel 0 of the full panel: each pixel at its place (40_controller_protocol.md
R142, 20_memory.md R52, R55). -/
theorem Panel.observeAll_transferList_full (c : Params) (p : Panel) (m : Memory) (hc : 1 ≤ c.chunkMax)
    (hconf : p.configured = true) (ha : p.armed = some ⟨0, 0, 239, 239, 0, none⟩)
    (hr : Cells.rising 0 p.gram = true) :
    (p.observeAll c (okEntries (transferList c (m.readRun 0 115200)))).armed = some ⟨0, 0, 239, 239, 57600, none⟩ ∧
    ∀ x y, x < 240 → y < 240 → (p.observeAll c (okEntries (transferList c (m.readRun 0 115200)))).pixel x y =
      some (m.read (2 * (y * 240 + x)) ++ m.read (2 * (y * 240 + x) + 1)) := by
  rw [Panel.observeAll_transferList c p _ hc (by simp [ha])]
  obtain ⟨armed, cells⟩ := Panel.foldl_byte_readRun m 57600 0 { p with expect := .nothing } hconf ha hr (by omega)
  refine ⟨armed, fun x y hx hy => ?_⟩
  exact (cells _).trans (if_pos ⟨Nat.zero_le _, by simp only [gramPlace, Config.width]; omega⟩)

/-- Settles O57: TRANSFER's list is all of NB, in chunks. -/
theorem transferPaintsArmedPanel : Obligations.TransferPaintsArmedPanel := by
  intro s hc hconf ha hr hok
  exact ⟨_, exec_ok_eq (i := .transfer) rfl hok,
    Panel.observeAll_transferList_full s.params s.panel s.nb hc hconf ha hr⟩

end Sys2Proof.Machine
end

section
/-! PROOFS. The family 40_controller_protocol.md, requests: acceptance of INIT and SETWINDOW (O7, O30, O31, O32), the
execution step (O10, O11, O12, O25, O27), its runs beside the meanings of the operations (O14, O15), and whole requests
(O16, O17, O60). -/

namespace Sys2Proof.Machine

/-! ## Acceptance -/

/-- Settles O7: the call and its image reach the port, or the slot is emptied, and then the meaning runs. -/
theorem stepRunsDecodedInstruction : Obligations.StepRunsDecodedInstruction :=
  ⟨fun s r rest w i hi hp hh hw hd => step_presented_word s r rest w i hi hp hh hw hd, step_direct⟩

/-- INIT's acceptance with its list (40_controller_protocol.md R121). -/
theorem exec_init_eq (s : State) (hp : s.phase = .idle) :
    exec .init s = .next (({ s with initDone := false }.latch 0x0000000000000001#64).start .init
      (resetList ++ tableList s.params ++ tailList s.params)) := whenReady_idle s _ hp

/-- Settles O30: the table's list is spelled out by `tableList_eq`. -/
theorem initAccepted : Obligations.InitAccepted := by
  intro s hp
  rw [exec_init_eq s hp, tableList_eq]
  rfl

theorem delayOf_append (ts us : List Txn) : delayOf (ts ++ us) = delayOf ts + delayOf us := by
  simp [delayOf]

theorem delayOf_vendorTxns (c : Byte) (ps : List Byte) (d : Option Nat) : delayOf (vendorTxns c ps d) = d.getD 0 := by
  cases ps <;> cases d <;> simp [vendorTxns, frame, sleepOf, delayOf]

theorem delayOf_flatMap {α : Type} (es : List α) (f : α → List Txn) :
    delayOf (es.flatMap f) = (es.map fun e => delayOf (f e)).sum := by
  induction es with
  | nil => rfl
  | cons e es ih => rw [List.flatMap_cons, delayOf_append, ih, List.map_cons, List.sum_cons]

/-- Settles O31: each entry adds its count and its delay, beside the pulse and the tail. -/
theorem initListLengthAndDelay : Obligations.InitListLengthAndDelay := by
  intro p
  constructor
  · rw [List.length_append, List.length_append, length_tableList]
    rfl
  · rw [delayOf_append, delayOf_append, tableList, delayOf_flatMap]
    simp only [delayOf_vendorTxns]
    rfl

/-- Settles O32: the window check and the check of INIT_DONE pass. -/
theorem setwindowAccepted : Obligations.SetwindowAccepted := by
  intro s xs ys xe ye hp hd hx hx' hy hy'
  have hw := (windowOk_iff xs ys xe ye).mpr ⟨hx, hx', hy, hy'⟩
  rw [exec, execSetwindow, whenReady_idle s _ hp, if_pos hw, if_pos hd, windowList_eq _ _ _ _ _ (by omega) (by omega)]
  rfl

/-! ## The execution step -/

/-- Completion returns SEQ and SUB to idle wherever they stand. -/
theorem State.complete_moveTo (s : State) (n : Nat) : (s.moveTo n).complete = s.complete := by
  rw [State.complete_eq, State.complete_eq]
  rfl

/-- A step answered OK issues the transaction and moves SEQ by one (40_controller_protocol.md R114). -/
theorem step_ok {s : State} {t : Txn} (hi : s.ir = none) (hp : s.phase ≠ .idle) (ht : s.tl[s.seq]? = some t)
    (ho : s.outcome t = .ok) : step s = .next ((s.issued t .ok).advance 1) := by
  rw [step_running s t hi hp ht, State.issueNext, ho]

/-- A step answered FAIL issues the transaction and ends the request (40_controller_protocol.md R110). -/
theorem step_fail {s : State} {t : Txn} (hi : s.ir = none) (hp : s.phase ≠ .idle) (ht : s.tl[s.seq]? = some t)
    (ho : s.outcome t = .fail) : step s = .next ((s.issued t .fail).raise .transportFailure) := by
  rw [step_running s t hi hp ht, State.issueNext, ho]

theorem State.advance_of_end {s : State} {n : Nat} (h : s.seq + n = s.tl.length) : s.advance n = s.complete := by
  rw [State.advance, if_pos h, State.complete_moveTo]

theorem State.advance_of_not_end {s : State} {n : Nat} (h : s.seq + n ≠ s.tl.length) :
    s.advance n = s.moveTo (s.seq + n) := if_neg h

theorem respWord_ok (d : Bool) : respWord d .ok = if d = true then 0x08#8 else 0x00#8 := by cases d <;> rfl

theorem respWord_transportFailure (d : Bool) :
    respWord d .transportFailure = if d = false then 0x01#8 else 0x09#8 := by cases d <;> rfl

/-- Settles O10: SEQ is not at the last index, so it only moves. -/
theorem stepIssuesTransactionAtSeq : Obligations.StepIssuesTransactionAtSeq := by
  intro s t hi hp ht ho hn
  rw [step_ok hi hp ht ho, State.advance_of_not_end (s := s.issued t .ok) hn]
  rfl

/-- Settles O11: completion in one form, for an INIT and for the others. -/
theorem lastTransactionCompletesRequest : Obligations.LastTransactionCompletesRequest := by
  intro s t hi hp ht ho hn
  rw [step_ok hi hp ht ho, State.advance_of_end (s := s.issued t .ok) hn, State.complete_eq]
  by_cases hinit : s.phase = .init <;> simp [State.respond, State.issued, respWord_ok, hinit]

/-- Settles O12: the error clears INIT_DONE in an INIT, and RESP says so. -/
theorem failedTransactionAbortsRequest : Obligations.FailedTransactionAbortsRequest := by
  intro s t hi hp ht ho
  have hresp : (if (if s.phase = .init then false else s.initDone) = false then 0x01#8 else 0x09#8 : BitVec 8) =
      if s.phase = .init ∨ s.initDone = false then 0x01#8 else 0x09#8 := by
    by_cases hinit : s.phase = .init <;> simp [hinit]
  rw [step_fail hi hp ht ho, State.raise_issued_fail_eq, respWord_transportFailure, hresp]
  rfl

/-- What the execution step makes of the observer (40_controller_protocol.md R141, R145). -/
theorem State.issueNext_panel (s : State) (t : Txn) :
    (s.issueNext t).panel = if s.phase = .init ∧ s.seq + 1 = s.tl.length ∧ s.outcome t = .ok then
      { s.panel.observe s.params t (s.outcome t) with configured := true }
    else s.panel.observe s.params t (s.outcome t) := by
  rcases State.issueNext_cases s t with ⟨ho, hn, e⟩ | ⟨ho, hn, e⟩ | ⟨ho, e⟩ <;> rw [e, ho]
  · rw [if_neg fun h => hn h.2.1]
    rfl
  · rw [State.complete_moveTo, State.complete_eq]
    by_cases hinit : s.phase = .init <;> simp [hinit, hn]
  · rw [if_neg fun h => by cases h.2.2]
    rfl

/-- Settles O25: waiting and acceptance leave LOG and the observer alone. -/
theorem panelFollowsLog : Obligations.PanelFollowsLog := by
  intro s s' hi h
  rcases step_cases s s' hi h with ⟨-, -, rfl⟩ | ⟨-, r, rest, -, hacc⟩ | ⟨-, t, -, rfl⟩
  · exact .inl ⟨rfl, rfl⟩
  · have q := quiet_of_accepted hacc
    exact .inl ⟨q.log, q.panel⟩
  · exact .inr ⟨t, _, s.issueNext_log t, s.issueNext_panel t⟩

/-- An entry with OK that is not the pulse's PIN(RST, LOW) leaves `configured` alone. -/
theorem Panel.observe_ok_configured (c : Params) (p : Panel) (t : Txn) (ht : t ≠ .pinRst .low) :
    (p.observe c t .ok).configured = p.configured := by
  cases t with
  | pinRst l =>
    cases l with
    | low => exact absurd rfl ht
    | high => rfl
  | pinDc l => cases l <;> rfl
  | cmd b => exact Panel.command_configured c p b
  | data bs => exact Panel.dataBytes_configured p bs
  | sleep ms => rfl

/-- Outside INIT no transaction with OK writes `configured` or INIT_DONE, since none is a PIN(RST). -/
theorem State.Inv.issueNext_ok_configured {s : State} (h : s.Inv) (hp : s.phase ≠ .init) {t : Txn} (ht : t ∈ s.tl)
    (ho : s.outcome t = .ok) : (s.issueNext t).panel.configured = s.panel.configured := by
  have hne : t ≠ .pinRst .low := by
    rintro rfl
    have := h.listIssuable _ ht
    simp [issuable, hp] at this
  rw [State.issueNext_panel, if_neg fun hc => hp hc.1, ho, Panel.observe_ok_configured _ _ _ hne]

/-- A step of an INIT leaves the INIT running, or ends it with `configured` and INIT_DONE equal
(40_controller_protocol.md R115, R144, R145). -/
theorem State.issueNext_init_configured (s : State) (t : Txn) (hp : s.phase = .init) :
    (s.issueNext t).phase = .init ∨ (s.issueNext t).panel.configured = (s.issueNext t).initDone := by
  rcases State.issueNext_cases s t with ⟨-, -, e⟩ | ⟨-, -, e⟩ | ⟨-, e⟩ <;> rw [e]
  · exact .inl hp
  · right
    rw [State.complete_moveTo, State.complete_eq]
    simp [hp]
  · right
    simp [hp, Panel.observe, Panel.unknown]

/-- Settles O27: an acceptance keeps the equality or starts an INIT, and so does the execution step outside a
failure. -/
theorem configuredEqualsInitDoneUntilFailure : Obligations.ConfiguredEqualsInitDoneUntilFailure := by
  intro s s' h heq hstep hfail
  rcases step_cases s s' h.slotEmpty hstep with ⟨-, -, rfl⟩ | ⟨hp, r, rest, -, hacc⟩ | ⟨hp, t, ht, rfl⟩
  · exact heq
  · have heq' : s.panel.configured = s.initDone := heq.resolve_left (by simp [hp])
    rcases hacc with he | hi | hw
    · exact .inr (by rw [he.panel, he.initDone]; exact heq')
    · exact .inl hi.phase
    · exact .inr (by rw [hw.panel, hw.initDone]; exact heq'.trans hw.wasDone)
  · by_cases hinit : s.phase = .init
    · exact s.issueNext_init_configured t hinit
    · have ho : s.outcome t = .ok := by
        cases ho : s.outcome t with
        | ok => rfl
        | fail => exact absurd (ho ▸ s.issueNext_log t) ((hfail.resolve_left hinit).resolve_left hp t)
      right
      rw [h.issueNext_ok_configured hinit (List.mem_of_getElem? ht) ho, s.issueNext_initDone t hinit]
      exact heq.resolve_left hinit

/-! ## Runs of a running request -/

/-- A run of any machine by its first step. -/
theorem coreRun_succ (M : Host.Core) {s s' : M.State} (n : Nat) (h : M.step s = .next s') :
    M.run (n + 1) s = M.run n s' := by
  rw [Host.Core.run, h]

theorem run_succ {s s' : State} (n : Nat) (h : step s = .next s') :
    Sys2Proof.core.run (n + 1) s = Sys2Proof.core.run n s' := coreRun_succ Sys2Proof.core n h

/-- The transaction at SEQ, and what follows it, where the list from SEQ on starts with them. -/
theorem next_at_seq {s : State} {t : Txn} {ts : List Txn} (h : t :: ts <+: s.tl.drop s.seq) :
    s.tl[s.seq]? = some t ∧ ts <+: s.tl.drop (s.seq + 1) := by
  obtain ⟨rest, hrest⟩ := h
  constructor
  · rw [← List.head?_drop, ← hrest]
    rfl
  · rw [← List.tail_drop, ← hrest]
    exact ⟨rest, rfl⟩

/-- Where more of the list follows, a step answered OK only moves SEQ. -/
theorem step_ok_more {s : State} {t u : Txn} {us : List Txn} (hi : s.ir = none) (hp : s.phase ≠ .idle)
    (h : t :: u :: us <+: s.tl.drop s.seq) (ho : s.outcome t = .ok) :
    step s = .next ((s.issued t .ok).moveTo (s.seq + 1)) ∧ u :: us <+: s.tl.drop (s.seq + 1) := by
  obtain ⟨ht, hus⟩ := next_at_seq h
  have hlen := hus.length_le
  rw [List.length_drop, List.length_cons] at hlen
  exact ⟨by rw [step_ok hi hp ht ho]; exact congrArg _ (State.advance_of_not_end (by dsimp; omega)), hus⟩

/-- Moving SEQ by one and then on is moving it at once. -/
theorem State.advance_moveTo_succ {s : State} {m : Nat} (h : s.seq = m) (n : Nat) :
    (s.moveTo (m + 1)).advance n = s.advance (n + 1) := by
  subst h
  simp only [State.advance, Nat.add_comm n 1, ← Nat.add_assoc]
  rfl

theorem State.issuedAll_seq (s : State) (ts : List Txn) : (s.issuedAll ts).seq = s.seq := by
  rw [State.issuedAll_eq]

/-- Transactions of TL from SEQ on that are all answered OK: as many steps issue them and move SEQ past them. -/
theorem run_answersOk (t : Txn) (ts : List Txn) (s : State) (hi : s.ir = none) (hp : s.phase ≠ .idle)
    (h : t :: ts <+: s.tl.drop s.seq) (ha : State.AnswersOk (t :: ts) s) :
    Sys2Proof.core.run (t :: ts).length s = .next ((s.issuedAll (t :: ts)).advance (t :: ts).length) := by
  induction ts generalizing s t with
  | nil => rw [List.length_singleton, run_succ 0 (step_ok hi hp (next_at_seq h).1 ha.1)]; rfl
  | cons u us ih =>
    obtain ⟨hstep, hus⟩ := step_ok_more hi hp h ha.1
    rw [List.length_cons, run_succ _ hstep, ih u ((s.issued t .ok).moveTo (s.seq + 1)) hi hp hus
      ((State.answersOk_moveTo _ _ _).mpr ha.2), State.issuedAll_moveTo]
    exact congrArg _ (State.advance_moveTo_succ (State.issuedAll_seq _ _) _)

/-- A transaction that fails after OK answers to those before it: as many steps end the request there. -/
theorem run_failsAfter (before : List Txn) (t : Txn) (s : State) (hi : s.ir = none) (hp : s.phase ≠ .idle)
    (h : before ++ [t] <+: s.tl.drop s.seq) (hf : State.FailsAfter before t s) :
    Sys2Proof.core.run (before.length + 1) s =
      .next (((s.issuedAll before).issued t .fail).raise .transportFailure) := by
  induction before generalizing s with
  | nil => exact run_succ 0 (step_fail hi hp (next_at_seq h).1 hf.2)
  | cons b bs ih =>
    obtain ⟨⟨hb, hbs⟩, ht⟩ := hf
    obtain ⟨u, us, hu⟩ : ∃ u us, bs ++ [t] = u :: us := List.exists_cons_of_ne_nil (by simp)
    rw [List.cons_append, hu] at h
    obtain ⟨hstep, hus⟩ := step_ok_more hi hp h hb
    rw [← hu] at hus
    rw [List.length_cons, run_succ _ hstep, ih ((s.issued b .ok).moveTo (s.seq + 1)) hi hp hus
      ((State.failsAfter_moveTo _ _ _ _).mpr ⟨hbs, ht⟩), State.issuedAll_moveTo, State.issuedAll_cons]
    rfl

/-- Settles O14: the steps issue the operation's list, and its meaning issues the same. -/
theorem stepsRunOperation : Obligations.StepsRunOperation := by
  intro s i ts hi hp hts hne hpre ha
  obtain ⟨t, ts, rfl⟩ := List.exists_cons_of_ne_nil hne
  exact ⟨_, exec_ok hts ha, run_answersOk t ts s hi hp hpre ha⟩

/-- Settles O15: steps and meaning both end at the failed transaction. -/
theorem stepsFailLikeOperation : Obligations.StepsFailLikeOperation := by
  intro s i before after t hi hp hts hpre hf
  exact (run_failsAfter before t s hi hp hpre hf).trans (exec_fail hts hf).symm

/-! ## Whole requests -/

/-- A running request answered OK to its end issues the rest of TL and completes, one step per transaction. -/
theorem run_request (s : State) (hi : s.ir = none) (hp : s.phase ≠ .idle) (hseq : s.seq < s.tl.length)
    (ha : State.AnswersOk (s.tl.drop s.seq) s) :
    Sys2Proof.core.run (s.tl.length - s.seq) s = .next (s.issuedAll (s.tl.drop s.seq)).complete := by
  have hlen : s.tl.length - s.seq = (s.tl.drop s.seq).length := List.length_drop.symm
  obtain ⟨t, ts, hts⟩ : ∃ t ts, s.tl.drop s.seq = t :: ts :=
    List.exists_cons_of_ne_nil (List.drop_eq_nil_iff.not.mpr (by omega))
  have hend : s.seq + (t :: ts).length = s.tl.length := by rw [← hts, List.length_drop]; omega
  rw [hts] at ha hlen ⊢
  rw [hlen, run_answersOk t ts s hi hp (by rw [hts]) ha, State.advance_of_end]
  rw [State.issuedAll_eq]
  exact hend

/-- A request just accepted takes as many steps as its list is long. -/
theorem run_started (t : State) (hi : t.ir = none) (hp : t.phase ≠ .idle) (hseq : t.seq = 0) (hne : t.tl ≠ [])
    (ha : State.AnswersOk t.tl t) :
    Sys2Proof.core.run t.tl.length t = .next (t.issuedAll t.tl).complete := by
  have hrun := run_request t hi hp (by rw [hseq]; exact List.length_pos_iff.mpr hne)
  rw [hseq] at hrun
  exact hrun ha

/-- Settles O16: issuing and completion write only what the clauses name. -/
theorem requestCompletesInItsListLength : Obligations.RequestCompletesInItsListLength := by
  intro s hi hp hseq ha
  refine ⟨_, run_request s hi hp hseq ha, ?_⟩
  rw [State.complete_eq, State.issuedAll_eq]
  exact ⟨rfl, rfl, rfl, rfl, rfl, rfl, rfl, rfl, rfl, rfl, rfl, rfl, rfl, rfl, rfl⟩

/-- Settles O17: the list from SEQ on starts with the transactions before the failed one, and it. -/
theorem failedRequestLeavesPrefixInLog : Obligations.FailedRequestLeavesPrefixInLog := by
  intro s before after t hi hp htl hf
  have hpre : before ++ [t] <+: s.tl.drop s.seq := ⟨after, by rw [htl]; simp⟩
  refine ⟨_, run_failsAfter before t s hi hp hpre hf, ?_⟩
  rw [State.raise_issued_fail_eq, State.issuedAll_eq]
  exact ⟨rfl, rfl, rfl, rfl, rfl, rfl, rfl, rfl⟩

/-- After INIT's list the observer is not armed and knows no pixel: its last command is DISPON
(40_controller_protocol.md R123, R141). -/
theorem Panel.observeAll_tailList (c : Params) (p : Panel) (ts : List Txn) (hd : c.distinct = true) :
    (p.observeAll c (okEntries (ts ++ tailList c))).armed = none ∧
    (p.observeAll c (okEntries (ts ++ tailList c))).gram = [] := by
  obtain ⟨-, -, -, -, -, -, hcol, hrow, hram⟩ := Params.ne_of_distinct c hd
  have hdispon := fun q => Panel.observeAll_settle c q c.cmdDispon 20 hcol hrow hram
  rw [tailList, ← List.append_assoc, okEntries_append, Panel.observeAll_append]
  exact ⟨congrArg Panel.armed (hdispon _), congrArg Panel.gram (hdispon _)⟩

/-- The reset line ends HIGH after the pulse, the table and the tail (40_controller_protocol.md R120). -/
theorem foldl_nextRstShadow_init (p : Params) (r : RstShadow) :
    (resetList ++ tableList p ++ tailList p).foldl (fun r t => nextRstShadow r t .ok) r = .high := by
  rw [List.append_assoc, List.foldl_append, foldl_nextRstShadow_of_no_pinRst _ (pinRst_not_mem_table_tail p)]
  rfl

/-- Settles O60: INIT's list is issued whole, its tail leaves nothing armed or known, and completion configures. -/
theorem initConfiguresPanel : Obligations.InitConfiguresPanel := by
  intro s t hi hp hd ht ha
  rw [exec_init_eq s hp, Host.Outcome.next.injEq] at ht
  have htl : t.tl = resetList ++ tableList s.params ++ tailList s.params := by rw [← ht]; rfl
  have hrun := run_started t (by rw [← ht]; exact hi) (by rw [← ht]; exact Phase.noConfusion) (by rw [← ht]; rfl)
    (by rw [htl]; exact List.cons_ne_nil _ _) ha
  rw [htl, (initListLengthAndDelay s.params).1] at hrun
  refine ⟨_, hrun, ?_⟩
  rw [State.complete_eq, State.issuedAll_eq]
  obtain ⟨armed, gram⟩ := Panel.observeAll_tailList s.params s.panel (resetList ++ tableList s.params) hd
  subst ht
  refine ⟨rfl, rfl, congrArg some (respWord_ok true), rfl, rfl, ?_, ?_, rfl, ?_, fun x y => ?_⟩
  · exact foldl_nextRstShadow_init s.params s.rstShadow
  · exact foldl_nextDcShadow_tail s.params _ s.dcShadow
  · exact armed
  · exact congrArg (Cells.get? · (gramPlace x y)) gram

end Sys2Proof.Machine
end

section
/-! PROOFS. The family 41_frame_transfer.md, data: packed pixels (O52) and chunks (O54, O55). -/

namespace Sys2Proof.Machine

/-! ## Pixel packing -/

/-- The fields of a native pixel, from bit 15 down (41_frame_transfer.md R151), told apart bit by bit. -/
theorem packPixel_eq_append (r g b : Byte) :
    packPixel r g b = r.extractLsb' 3 5 ++ g.extractLsb' 2 6 ++ b.extractLsb' 3 5 := by
  apply BitVec.eq_of_getLsbD_eq
  intro i hi
  rw [packPixel, packHi, packLo, BitVec.getLsbD_append, BitVec.getLsbD_append, BitVec.getLsbD_append]
  interval_cases i <;> simp

/-- Settles O52: each field is read off the pixel where it was put, and the fields are all there is. -/
theorem packKeepsTopBits : Obligations.PackKeepsTopBits := by
  refine ⟨fun r g b => ?_, by decide, by decide, fun r g b r' g' b' hr hg hb => ?_⟩
  · rw [packPixel_eq_append]
    refine ⟨?_, ?_, BitVec.extractLsb'_append_eq_right⟩
    · rw [BitVec.extractLsb'_append_eq_of_le (by decide), BitVec.extractLsb'_append_eq_of_le (by decide)]
      exact BitVec.extractLsb'_eq_self
    · rw [BitVec.extractLsb'_append_eq_of_le (by decide)]
      exact BitVec.extractLsb'_append_eq_right
  · rw [packPixel_eq_append, packPixel_eq_append, hr, hg, hb]

/-! ## Chunks -/

theorem length_chunks (bs : List Byte) (c : Nat) : (chunks bs c).length = ceilDiv bs.length c := by
  rw [chunks, List.length_map, List.length_range]

theorem getElem?_chunks {bs : List Byte} {c k : Nat} (hk : k < ceilDiv bs.length c) :
    (chunks bs c)[k]? = some ((bs.drop (k * c)).take c) := by
  rw [chunks, List.getElem?_map, List.getElem?_range hk]
  rfl

/-- There is a chunk `k` exactly where there is a byte at its start. -/
theorem lt_ceilDiv {l c k : Nat} (hc : 1 ≤ c) : k < ceilDiv l c ↔ k * c < l := by
  rw [ceilDiv, ← Nat.succ_le_iff, Nat.le_div_iff_mul_le hc, Nat.succ_mul]
  omega

/-- Bytes that fit in one chunk are one chunk. -/
theorem chunks_of_length_le {bs : List Byte} {c : Nat} (hpos : 0 < bs.length) (h : bs.length ≤ c) :
    chunks bs c = [bs] := by
  have one : ceilDiv bs.length c = 1 := Nat.div_eq_of_lt_le (by omega) (by omega)
  rw [chunks, one]
  show [(bs.drop (0 * c)).take c] = [bs]
  rw [Nat.zero_mul, List.drop_zero, List.take_of_length_le h]

/-- Settles O54: where a chunk follows, the bytes reach past the chunk before it. -/
theorem chunksSplitTheBytes : Obligations.ChunksSplitTheBytes := by
  intro bs c hc
  refine ⟨length_chunks bs c, fun ch => length_of_mem_chunks bs ch c, flatten_chunks bs c hc,
    fun k ch hk hnext => ?_⟩
  rw [length_chunks, lt_ceilDiv hc, Nat.succ_mul] at hnext
  rw [getElem?_chunks ((lt_ceilDiv hc).mpr (by omega)), Option.some.injEq] at hk
  rw [← hk, List.length_take, List.length_drop]
  omega

/-- Settles O55: the counts are `ceilDiv` of 115200, and chunk 28 of 4096 bytes is what is left. -/
theorem bufferChunkCounts : Obligations.BufferChunkCounts := by
  intro bs h
  have count : ∀ c, (chunks bs c).length = (115200 + c - 1) / c := fun c => by rw [length_chunks, h, ceilDiv]
  have chunk : ∀ k, k < 29 → (chunks bs 4096)[k]? = some ((bs.drop (4096 * k)).take 4096) := fun k hk => by
    rw [Nat.mul_comm]
    exact getElem?_chunks (by rw [h]; exact hk)
  have last : (bs.drop 114688).length = 512 := by rw [List.length_drop, h]
  refine ⟨count 4096, fun k hk => chunk k (by omega), ?_, last, count 1, fun c hc => ?_, fun c _ => count c⟩
  · rw [chunk 28 (by decide), List.take_of_length_le (Nat.le_trans (Nat.le_of_eq last) (by decide))]
  · exact chunks_of_length_le (by omega) (by omega)

end Sys2Proof.Machine
end

section
/-! PROOFS. The family 41_frame_transfer.md, operations: ENCODE and FILL (O43, O44), TRANSFER (O45), and the acceptance
of RENDER and CLEAR (O35, O36, O37). -/

namespace Sys2Proof.Machine

/-! ## NB after ENCODE and FILL -/

/-- A run written over the whole buffer, read at any index. -/
theorem Memory.read_writeRun_all (m : Memory) (f : Nat → Byte) (a : Nat) (h : m.wf = true) :
    (m.writeRun 0 Config.nbSize f).read a = if a < 115200 then f a else m.read a := by
  rw [Memory.read_writeRun m 0 _ f a h (Nat.le_of_eq (Nat.zero_add _)), Nat.zero_add]
  simp only [Nat.zero_le, true_and, Nat.sub_zero]
  rfl

/-- The two bytes of a pixel after ENCODE (41_frame_transfer.md R150, R152). -/
theorem State.read_encoded_pixel (s : State) (h : s.nb.wf = true) {x y : Nat} (hx : x < 240) (hy : y < 240) :
    s.encoded.nb.read (2 * (y * 240 + x)) = packHi (s.image.read s.draws x y 0) (s.image.read s.draws x y 1) ∧
    s.encoded.nb.read (2 * (y * 240 + x) + 1) = packLo (s.image.read s.draws x y 1) (s.image.read s.draws x y 2) := by
  rw [s.encoded_nb, Memory.read_writeRun_all _ _ _ h, Memory.read_writeRun_all _ _ _ h, if_pos (by omega),
    if_pos (by omega), frameByte_even _ _ _ _ hx, frameByte_odd _ _ _ _ hx]
  exact ⟨rfl, rfl⟩

/-- ENCODE writes nothing past NB. -/
theorem State.read_encoded_beyond (s : State) (h : s.nb.wf = true) (a : Nat) (ha : 115200 ≤ a) :
    s.encoded.nb.read a = s.nb.read a := by
  rw [s.encoded_nb, Memory.read_writeRun_all _ _ _ h, if_neg (by omega)]

/-- Every byte of NB after FILL (41_frame_transfer.md R176). -/
theorem State.read_filled (s : State) (h : s.nb.wf = true) (a : Nat) (ha : a < 115200) :
    s.filled.nb.read a = 0xFF#8 := by
  rw [s.filled_nb, Memory.read_writeRun_all _ _ _ h, if_pos ha]
  rfl

/-- FILL writes nothing past NB. -/
theorem State.read_filled_beyond (s : State) (h : s.nb.wf = true) (a : Nat) (ha : 115200 ≤ a) :
    s.filled.nb.read a = s.nb.read a := by
  rw [s.filled_nb, Memory.read_writeRun_all _ _ _ h, if_neg (by omega)]

/-- ENCODE writes SUB, NB and the counter of its runs (41_frame_transfer.md R152; log 5). -/
theorem State.encoded_eq (s : State) :
    s.encoded = { s with sub := .encode, nb := s.encoded.nb, draws := s.encoded.draws } := by
  rw [State.encoded_nb]
  rfl

/-- FILL writes SUB and NB (41_frame_transfer.md R176). -/
theorem State.filled_eq (s : State) : s.filled = { s with sub := .fill, nb := s.filled.nb } := by
  rw [State.filled_nb]
  rfl

/-! ## ENCODE and FILL -/

theorem Image.not_fits_iff (i : Image) : ¬ i.fits = true ↔ i.width ≠ 240 ∨ i.height ≠ 240 ∨ i.channels < 3 := by
  rw [i.fits_iff]
  omega

/-- ENCODE by its check (41_frame_transfer.md R153). -/
theorem exec_encode_eq (s : State) :
    exec .encode s = if s.image.fits then .next s.encoded else .next (s.raise .dimensionMismatch) := by
  rw [exec, execEncode, State.encodeFrame_eq]
  rfl

theorem exec_fill_eq (s : State) : exec .fill s = .next s.filled := s.fillBuffer_eq

/-- Settles O43: the check passes and NB holds the frame, or it fails before any write. -/
theorem encodeFillsBufferFromImage : Obligations.EncodeFillsBufferFromImage := by
  intro s hnb
  constructor
  · intro hw hh hc
    refine ⟨s.encoded, ?_, s.encoded_eq, fun x y hx hy => ?_, s.read_encoded_beyond hnb⟩
    · rw [exec_encode_eq, if_pos (s.image.fits_iff.mpr ⟨hw, hh, hc⟩)]
    · obtain ⟨high, low⟩ := s.read_encoded_pixel hnb hx hy
      rw [high, low, packPixel]
  · intro hbad
    rw [exec_encode_eq, if_neg (s.image.not_fits_iff.mpr hbad)]
    rfl

/-- Settles O44: FILL is one run of writes over the whole buffer. -/
theorem fillSetsEveryByte : Obligations.FillSetsEveryByte := by
  intro s hnb
  exact ⟨s.filled, exec_fill_eq s, s.filled_eq, s.read_filled hnb, s.read_filled_beyond hnb⟩

/-! ## TRANSFER -/

theorem length_transferList (p : Params) (bs : List Byte) :
    (transferList p bs).length = 1 + ceilDiv bs.length p.chunkMax := by
  rw [transferList, List.length_cons, List.length_map, length_chunks, Nat.add_comm]

/-- The chunks of a run of NB are runs of NB (41_frame_transfer.md R160, R161). -/
theorem chunks_readRun (m : Memory) (n c : Nat) :
    chunks (m.readRun 0 n) c = (List.range (ceilDiv n c)).map fun k => m.readRun (k * c) (min c (n - k * c)) := by
  simp only [chunks, Memory.length_readRun, Memory.readRun_part]

/-- DATAs leave the command/data line at DATA (40_controller_protocol.md R112). -/
theorem foldl_nextDcShadow_data (bss : List (List Byte)) :
    (bss.map Txn.data).foldl (fun d t => nextDcShadow d t .ok) .data = .data := by
  induction bss with
  | nil => rfl
  | cons bs bss ih => exact ih

/-- TRANSFER sets the command/data line to DATA, and its DATAs leave it there. -/
theorem foldl_nextDcShadow_transferList (p : Params) (bs : List Byte) (d : DcShadow) :
    (transferList p bs).foldl (fun d t => nextDcShadow d t .ok) d = .data :=
  foldl_nextDcShadow_data (chunks bs p.chunkMax)

theorem pinRst_not_mem_transferList (p : Params) (bs : List Byte) (l : Level) : .pinRst l ∉ transferList p bs := by
  simp [transferList]

/-- Settles O45: TRANSFER issues its list, which is the line and then the chunks of NB. -/
theorem transferSendsBufferInChunks : Obligations.TransferSendsBufferInChunks := by
  intro s ha
  refine ⟨_, exec_ok_eq (i := .transfer) (ts := transferList s.params (s.nb.readRun 0 115200)) rfl ha, ?_, ?_⟩
  · rw [foldl_nextRstShadow_of_no_pinRst _ (pinRst_not_mem_transferList s.params _), foldl_nextDcShadow_transferList,
      length_transferList, Memory.length_readRun]
    rfl
  · dsimp only
    rw [transferList, chunks_readRun, okEntries, List.map_cons, List.map_map, List.map_map]
    rfl

/-! ## Acceptance of RENDER and CLEAR -/

/-- An error while no request runs leaves INIT_DONE alone (60_exceptions.md R187). -/
theorem State.raise_of_idle (s : State) (e : Status) (hp : s.phase = .idle) : s.raise e = s.respond e := by
  rw [State.raise, if_neg (by rw [hp]; exact Phase.noConfusion)]

theorem respWord_dimensionMismatch (d : Bool) :
    respWord d .dimensionMismatch = if d = true then 0x0A#8 else 0x02#8 := by cases d <;> rfl

/-- Settles O35: RENDER's dimension check comes first, before ENCODE writes and before INIT_DONE is read. -/
theorem dimensionMismatchEndsRender : Obligations.DimensionMismatchEndsRender := by
  intro s hp hbad
  rw [exec_render_eq s hp, if_neg (s.image.not_fits_iff.mpr hbad), State.raise_of_idle (s.latch _) _ hp,
    ← respWord_dimensionMismatch]
  simp only [State.respond, State.latch, hp]

/-- The list of a RENDER or CLEAR spelled out (41_frame_transfer.md R161, R170). -/
theorem frameList_eq (p : Params) (bs : List Byte) :
    windowList p 0#12 0#12 fullXe fullYe ++ transferList p bs =
      [.cmd p.cmdCaset, .data [0x00#8, 0x00#8, 0x00#8, 0xEF#8],
        .cmd p.cmdRaset, .data [0x00#8, 0x00#8, 0x00#8, 0xEF#8],
        .cmd p.cmdRamwr, .pinDc .data] ++ (chunks bs p.chunkMax).map .data := rfl

/-- The acceptance of a RENDER or CLEAR that passed its checks, spelled out from the state in which the request came
(40_controller_protocol.md R113, R130, 41_frame_transfer.md R170, R175): `w` is its word, and `sub`, `nb` and `draws`
are what ENCODE or FILL left. -/
theorem startFrame_spelled {s u : State} {w : ReqWord} {sub : Sub} {nb : Memory} {draws : Nat} {ph : Phase}
    (hu : u = { s with req := w, resp := none, sub := sub, nb := nb, draws := draws })
    (hph : ph = .render ∨ ph = .clear) :
    u.startFrame ph = .next { s with
      req := w
      resp := none
      wxs := 0#12
      wys := 0#12
      wxe := 240#12
      wye := 240#12
      phase := ph
      sub := .window
      seq := 0
      tl :=
        [.cmd s.params.cmdCaset, .data [0x00#8, 0x00#8, 0x00#8, 0xEF#8],
          .cmd s.params.cmdRaset, .data [0x00#8, 0x00#8, 0x00#8, 0xEF#8],
          .cmd s.params.cmdRamwr, .pinDc .data] ++
        (chunks (nb.readRun 0 115200) s.params.chunkMax).map .data
      nb := nb
      draws := draws } := by
  subst hu
  rw [startFrame_eq, frameList_eq]
  rcases hph with rfl | rfl <;> rfl

theorem exec_render_accepted {s : State} (hp : s.phase = .idle) (hd : s.initDone = true)
    (hf : s.image.width = 240 ∧ s.image.height = 240 ∧ 3 ≤ s.image.channels) :
    exec .render s = (s.latch 0x0000000000000002#64).encoded.startFrame .render := by
  rw [exec_render_eq s hp, if_pos (s.image.fits_iff.mpr hf), if_pos hd]

theorem exec_clear_accepted {s : State} (hp : s.phase = .idle) (hd : s.initDone = true) :
    exec .clear s = (s.latch 0x0000000000000003#64).filled.startFrame .clear := by
  rw [exec_clear_eq s hp, if_pos hd]

/-- Settles O36: both checks pass, and the frame starts from what ENCODE left. NB is named before the states are
compared, so that nothing evaluates its 115200 writes. -/
theorem renderAccepted : Obligations.RenderAccepted := by
  intro s hp hd hnb hw hh hc
  have accepted := exec_render_accepted hp hd ⟨hw, hh, hc⟩
  rw [startFrame_spelled (State.encoded_eq _) (.inl rfl)] at accepted
  have pixels := @State.read_encoded_pixel (s.latch 0x0000000000000002#64) hnb
  have beyond := State.read_encoded_beyond (s.latch 0x0000000000000002#64) hnb
  generalize (s.latch 0x0000000000000002#64).encoded.nb = nb at accepted pixels beyond
  exact ⟨_, accepted, rfl, fun _ _ hx hy => pixels hx hy, beyond⟩

/-- Settles O37: the check passes, and the frame starts from what FILL left. -/
theorem clearAccepted : Obligations.ClearAccepted := by
  intro s hp hd hnb
  have accepted := exec_clear_accepted hp hd
  rw [startFrame_spelled (State.filled_eq _) (.inr rfl)] at accepted
  have white := State.read_filled (s.latch 0x0000000000000003#64) hnb
  have beyond := State.read_filled_beyond (s.latch 0x0000000000000003#64) hnb
  generalize (s.latch 0x0000000000000003#64).filled.nb = nb at accepted white beyond
  exact ⟨_, accepted, rfl, white, beyond⟩

end Sys2Proof.Machine
end

section
/-! PROOFS. The family 41_frame_transfer.md, whole requests: what a RENDER (O58) and a CLEAR (O59) answered OK
throughout put on the observer. -/

namespace Sys2Proof.Machine

/-! ## The frame on the observer -/

/-- The full-panel window arms the observer, and the chunks of NB fill it (40_controller_protocol.md R141, R142). -/
theorem Panel.observeAll_frameList (c : Params) (p : Panel) (m : Memory) (hd : c.distinct = true)
    (hc : 1 ≤ c.chunkMax) (hconf : p.configured = true) (hr : Cells.rising 0 p.gram = true) {q : Panel}
    (hq : q = p.observeAll c
      (okEntries (windowList c 0#12 0#12 fullXe fullYe ++ transferList c (m.readRun 0 115200)))) :
    q.armed = some ⟨0, 0, 239, 239, 57600, none⟩ ∧
    ∀ x y, x < 240 → y < 240 →
      q.pixel x y = some (m.read (2 * (y * 240 + x)) ++ m.read (2 * (y * 240 + x) + 1)) := by
  rw [okEntries_append, Panel.observeAll_append, Panel.observeAll_windowList c p _ _ _ _ hd (by decide)] at hq
  rw [hq]
  exact Panel.observeAll_transferList_full c _ m hc hconf rfl hr

theorem length_frameList (p : Params) (m : Memory) :
    (windowList p 0#12 0#12 fullXe fullYe ++ transferList p (m.readRun 0 115200)).length =
      6 + (115200 + p.chunkMax - 1) / p.chunkMax := by
  rw [List.length_append, length_windowList, length_transferList, Memory.length_readRun, ← Nat.add_assoc]
  rfl

/-! ## The request to its end -/

/-- Completion of a request that is no INIT responds with OK, and does no more (40_controller_protocol.md R115). -/
theorem State.complete_of_not_init {s : State} (hp : s.phase ≠ .init) : s.complete = s.respond .ok := by
  rw [State.complete_eq, if_neg hp, if_neg hp]

/-- What a RENDER or CLEAR that starts its frame from `s`, answered OK throughout, leaves: NB of `s` on the observer
(41_frame_transfer.md R172, R177). -/
structure FrameShown (s u : State) : Prop where
  phase     : u.phase = .idle
  resp      : u.resp = some 0x08#8
  logLength : u.log.length = s.log.length + (6 + (115200 + s.params.chunkMax - 1) / s.params.chunkMax)
  armed     : u.panel.armed = some ⟨0, 0, 239, 239, 57600, none⟩
  pixel     : ∀ x y, x < 240 → y < 240 →
    u.panel.pixel x y = some (s.nb.read (2 * (y * 240 + x)) ++ s.nb.read (2 * (y * 240 + x) + 1))

/-- A frame that starts after INIT with a configured observer, answered OK throughout, is shown after one step per
transaction of its list. -/
theorem run_frame {s t : State} {ph : Phase} (hph : ph = .render ∨ ph = .clear) (hi : s.ir = none)
    (hd : s.params.distinct = true) (hc : 1 ≤ s.params.chunkMax) (hinit : s.initDone = true)
    (hconf : s.panel.configured = true) (hr : Cells.rising 0 s.panel.gram = true)
    (ht : s.startFrame ph = .next t) (ha : State.AnswersOk t.tl t) :
    ∃ u, Sys2Proof.core.run (6 + (115200 + s.params.chunkMax - 1) / s.params.chunkMax) t = .next u ∧
      FrameShown s u := by
  have hne : ph ≠ .idle ∧ ph ≠ .init := by rcases hph with rfl | rfl <;> decide
  rw [startFrame_eq, Host.Outcome.next.injEq] at ht
  have htl : t.tl =
      windowList s.params 0#12 0#12 fullXe fullYe ++ transferList s.params (s.nb.readRun 0 115200) := by
    rw [← ht]; rfl
  have hrun := run_started t (by rw [← ht]; exact hi) (by rw [← ht]; exact hne.1) (by rw [← ht]; rfl)
    (by rw [htl]; exact List.cons_ne_nil _ _) ha
  rw [htl, length_frameList] at hrun
  refine ⟨_, hrun, ?_⟩
  rw [State.issuedAll_eq, State.complete_of_not_init (by rw [← ht]; exact hne.2)]
  obtain ⟨armed, pixel⟩ := Panel.observeAll_frameList s.params s.panel s.nb hd hc hconf hr rfl
  subst ht
  constructor
  case phase => rfl
  case resp => exact congrArg some ((respWord_ok s.initDone).trans (if_pos hinit))
  case logLength => exact List.length_append.trans (congrArg _ ((length_okEntries _).trans (length_frameList _ _)))
  case armed => exact armed
  case pixel => exact pixel

/-- Between requests a configured observer has seen INIT complete (40_controller_protocol.md R145). -/
theorem State.Inv.initDone_of_configured {s : State} (h : s.Inv) (hp : s.phase = .idle)
    (hconf : s.panel.configured = true) : s.initDone = true :=
  h.configuredInit.resolve_left (by simp [hp]) hconf

/-- Settles O58: the frame starts from what ENCODE left, and NB holds the packed pixels. -/
theorem renderPaintsImage : Obligations.RenderPaintsImage := by
  intro s t h hd hc hp hconf hw hh hch ht ha
  have hinit := h.initDone_of_configured hp hconf
  rw [exec_render_accepted hp hinit ⟨hw, hh, hch⟩] at ht
  obtain ⟨u, hrun, phase, resp, logLength, armed, pixel⟩ :=
    run_frame (s := (s.latch 0x0000000000000002#64).encoded) (.inl rfl) h.slotEmpty hd hc hinit hconf
      h.gramCanonical.1 ht ha
  refine ⟨u, hrun, phase, resp, logLength, armed, fun x y hx hy => ?_⟩
  obtain ⟨high, low⟩ := State.read_encoded_pixel (s.latch 0x0000000000000002#64) h.bufferCanonical hx hy
  rw [pixel x y hx hy, high, low]
  rfl

/-- Settles O59: the frame starts from what FILL left, and every pixel of NB is 0xFF 0xFF. -/
theorem clearPaintsWhite : Obligations.ClearPaintsWhite := by
  intro s t h hd hc hp hconf ht ha
  have hinit := h.initDone_of_configured hp hconf
  rw [exec_clear_accepted hp hinit] at ht
  obtain ⟨u, hrun, phase, resp, -, -, pixel⟩ :=
    run_frame (s := (s.latch 0x0000000000000003#64).filled) (.inr rfl) h.slotEmpty hd hc hinit hconf
      h.gramCanonical.1 ht ha
  have white := State.read_filled (s.latch 0x0000000000000003#64) h.bufferCanonical
  refine ⟨u, hrun, phase, resp, fun x y hx hy => ?_⟩
  rw [pixel x y hx hy, white _ (by omega), white _ (by omega)]
  rfl

end Sys2Proof.Machine
end

section
/-! PROOFS. The family 60_exceptions.md: the requests that an error ends at acceptance (O9, O33, O34). -/

namespace Sys2Proof.Machine

/-! ## An error at acceptance -/

/-- What an error writes while no request runs: INIT_DONE stays as it was (60_exceptions.md R184, R186, R187). -/
theorem State.raise_of_idle_eq (s : State) (e : Status) (hp : s.phase = .idle) :
    s.raise e = { s with
      status := e
      resp := some (respWord s.initDone e)
      sub := .none
      tl := []
      seq := 0 } := by
  rw [s.raise_of_idle e hp, State.respond, ← hp]

/-- An accepted word that ends in an error at once (40_controller_protocol.md R113, 60_exceptions.md R184). -/
theorem State.latch_raise_of_idle_eq (s : State) (w : ReqWord) (e : Status) (hp : s.phase = .idle) :
    (s.latch w).raise e = { s with
      req := w
      status := e
      resp := some (respWord s.initDone e)
      sub := .none
      tl := []
      seq := 0 } :=
  (s.latch w).raise_of_idle_eq e hp

/-! ## IllegalRequest -/

/-- An idle port ends a presented call at once where its word does not decode (60_exceptions.md R181). -/
theorem step_presented_illegal (s : State) (r : HostRequest) (rest : List HostRequest) (w : ReqWord) (e : Reject)
    (hi : s.ir = none) (hp : s.phase = .idle) (hh : s.host = r :: rest) (hw : r.call.toWord? = some w)
    (hd : decodeRequest w = .error e) : step s = .next (acceptIllegal w (s.take r rest)) := by
  simp only [step, hi, hp, if_true, State.stepIdle, hh, hw, State.accept, hd]

/-- SUB names nothing while the port is ready (10_state.md R26). -/
theorem State.Inv.sub_of_idle {s : State} (h : s.Inv) (hp : s.phase = .idle) : s.sub = .none := by
  rw [h.subNames, hp]
  rfl

/-- Settles O9: the invariant says that SUB, TL and SEQ already were what the error leaves in them. -/
theorem illegalWordEndsWithIllegalRequest : Obligations.IllegalWordEndsWithIllegalRequest := by
  intro s r rest w e h hp hh hw hd
  obtain ⟨htl, hseq⟩ := h.idleEmpty hp
  rw [step_presented_illegal s r rest w e h.slotEmpty hp hh hw hd, acceptIllegal,
    (s.take r rest).latch_raise_of_idle_eq w _ hp, ← h.sub_of_idle hp, ← htl, ← hseq]
  rfl

/-! ## InvalidWindow and NotInitialized -/

/-- SETWINDOW by its checks, in the order of 60_exceptions.md R188. -/
theorem exec_setwindow_eq (s : State) (xs ys xe ye : Coord) (hp : s.phase = .idle) :
    exec (.setwindow xs ys xe ye) s = .next
      (if windowOk xs ys xe ye then
        if s.initDone then
          ((s.latch (setwindowWord xs ys xe ye)).setLatches xs ys xe ye).start .setwindow
            (windowList s.params xs ys xe ye)
        else (s.latch (setwindowWord xs ys xe ye)).raise .notInitialized
      else (s.latch (setwindowWord xs ys xe ye)).raise .invalidWindow) :=
  whenReady_idle s _ hp

theorem respWord_invalidWindow (d : Bool) :
    respWord d .invalidWindow = if d = true then 0x0B#8 else 0x03#8 := by cases d <;> rfl

/-- Settles O33: the window check comes first, before INIT_DONE is read and before the latches are written. -/
theorem invalidWindowEndsSetwindow : Obligations.InvalidWindowEndsSetwindow := by
  intro s xs ys xe ye hp hbad
  rw [← windowOk_iff] at hbad
  rw [exec_setwindow_eq s xs ys xe ye hp, if_neg hbad, s.latch_raise_of_idle_eq _ _ hp, respWord_invalidWindow]

theorem respWord_notInitialized_false : respWord false .notInitialized = 0x05#8 := rfl

/-- A RENDER whose image fits ends in NotInitialized after ENCODE has run (41_frame_transfer.md R170, 60_exceptions.md
R183). -/
theorem exec_render_notInitialized {s : State} (hp : s.phase = .idle) (hd : s.initDone = false)
    (hf : s.image.fits = true) :
    exec .render s = .next { s with
      req := 0x0000000000000002#64
      status := .notInitialized
      resp := some 0x05#8
      sub := .none
      tl := []
      seq := 0
      nb := (s.latch 0x0000000000000002#64).encoded.nb
      draws := (s.latch 0x0000000000000002#64).encoded.draws } := by
  rw [exec_render_eq s hp, if_pos hf, if_neg (by simp [hd]),
    State.raise_of_idle_eq (s.latch 0x0000000000000002#64).encoded _ hp, ← respWord_notInitialized_false, ← hd]
  rfl

/-- Settles O34: each request passes its own check, and the check of INIT_DONE fails before any latch is written.
NB is named before the states are compared, so that nothing evaluates its 115200 writes. -/
theorem notInitializedEndsRequest : Obligations.NotInitializedEndsRequest := by
  intro s hp hd
  have hnot : ¬ s.initDone = true := by simp [hd]
  refine ⟨fun xs ys xe ye hx hx' hy hy' => ?_, ?_, fun hw hh hc => ?_⟩
  · have hok := (windowOk_iff xs ys xe ye).mpr ⟨hx, hx', hy, hy'⟩
    rw [exec_setwindow_eq s xs ys xe ye hp, if_pos hok, if_neg hnot, s.latch_raise_of_idle_eq _ _ hp, hd,
      respWord_notInitialized_false]
  · rw [exec_clear_eq s hp, if_neg hnot, s.latch_raise_of_idle_eq _ _ hp, hd, respWord_notInitialized_false]
  · have ended := exec_render_notInitialized hp hd (s.image.fits_iff.mpr ⟨hw, hh, hc⟩)
    generalize (s.latch 0x0000000000000002#64).encoded.nb = nb at ended
    exact ⟨_, ended, rfl⟩

end Sys2Proof.Machine
end

section
/-! PROOFS. The family 70_reset_and_hazards.md: what the observer knows after a failure, until an INIT completes
(O26). -/

namespace Sys2Proof.Machine

theorem Panel.pixel_of_gram_nil {p : Panel} (h : p.gram = []) (x y : Nat) : p.pixel x y = none := by
  rw [Panel.pixel, h, Cells.get?]

/-- No entry makes an unconfigured observer without pixels configured or lets it know a pixel
(40_controller_protocol.md R142, R144). -/
theorem Panel.observe_of_unconfigured (c : Params) {p : Panel} (t : Txn) (o : TxnOutcome)
    (hc : p.configured = false) (hg : p.gram = []) :
    (p.observe c t o).configured = false ∧ (p.observe c t o).gram = [] := by
  have hc' : (p.observe c t o).configured = false :=
    Bool.eq_false_iff.mpr fun h => Bool.eq_false_iff.mp hc (p.observe_configured c t o h)
  exact ⟨hc', p.knows_observe c t o (fun _ => hg) hc'⟩

/-- Settles O26: the observer moves only by the entry a step appends, and the completion of an INIT adds `configured`
to it but no pixel. -/
theorem unconfiguredPanelKnowsNoPixel : Obligations.UnconfiguredPanelKnowsNoPixel := by
  intro s s' hi hstep hc hg
  rcases panelFollowsLog s s' hi hstep with ⟨-, hp⟩ | ⟨t, o, -, hp⟩
  · rw [hp]
    exact ⟨Panel.pixel_of_gram_nil hg, fun _ => hc⟩
  · obtain ⟨hc', hg'⟩ := Panel.observe_of_unconfigured s.params t o hc hg
    rw [hp]
    split
    · next hlast => exact ⟨Panel.pixel_of_gram_nil hg', fun hnot => absurd ⟨hlast.1, hlast.2.1⟩ hnot⟩
    · exact ⟨Panel.pixel_of_gram_nil hg', fun _ => hc'⟩

end Sys2Proof.Machine
end
